-- ==== Sys2Proof/Word.lean ====
section
/-! DEFINITION. The word types of the block: everything is unsigned (00_scope.md R12). -/

namespace Sys2Proof

/-- A byte, `byte[7:0]` (R12). -/
abbrev Byte := BitVec 8

/-- A nibble, 4 bits (R12). -/
abbrev Nibble := BitVec 4

/-- A command word `CMD[11:0]` (30_encoding.md R70). -/
abbrev CmdWord := BitVec 12

/-- A delay in microseconds, `dly_us[15:0]` (20_memory.md R64). -/
abbrev Micros := BitVec 16

end Sys2Proof
end

