-- ==== Sys2Proof/Syntax.lean ====
section
/-! DEFINITION. The instructions: one constructor per row of spec/opcode_table.json. Also the port events the block
emits, and the packets an instruction travels in. -/

namespace Sys2Proof

/-- Every row of the opcode table. A command keeps the ARG it ignores, so that no bit of its word is dropped (log 16). -/
inductive Instr where
  -- commands, 30_encoding.md R72
  | init (arg : Byte)
  | deinit (arg : Byte)
  | writeInstr (v : Byte)
  | writeData (v : Byte)
  | readInstr (arg : Byte)
  | readData (arg : Byte)
  | waitBusy (arg : Byte)
  | initCtrl (arg : Byte)
  -- reserved OPs, R73
  | reserved0 (arg : Byte)
  | reserved9 (arg : Byte)
  | reservedA (arg : Byte)
  | reservedB (arg : Byte)
  | reservedC (arg : Byte)
  | reservedD (arg : Byte)
  | reservedE (arg : Byte)
  | reservedF (arg : Byte)
  -- pseudo-instructions, R88
  | cwri (v : Byte)
  | cwrd (v : Byte)
  -- port events, R78 and 40_port.md R101 to R116
  | portInit (w : Byte)
  | portDeinit
  | setRs
  | clrRs
  | setRw
  | clrRw
  | setCe
  | clrCe
  | dirIn4
  | dirIn8
  | dirOut4
  | dirOut8
  | out4 (n : Byte)
  | out8 (v : Byte)
  | in4
  | in8
  -- the delay channel, R117
  | delay (us : Micros)
  -- LCD codes, 30_encoding.md R79, R83 to R85
  | funcset8
  | dispctrl
  | clear
  | entry
  | prelim
  | funcset4
  | setDdram (addr : BitVec 7)
  deriving DecidableEq, Repr

/-- The event alphabet of 40_port.md R100, as the block emits it. OUT4 and PORT_INIT carry the whole `pev_arg` byte, so
that the contract violations of R118 can be written down. -/
inductive PortOp where
  | portInit (w : Byte)
  | portDeinit
  | setRs
  | clrRs
  | setRw
  | clrRw
  | setCe
  | clrCe
  | dirIn4
  | dirIn8
  | dirOut4
  | dirOut8
  | out4 (n : Byte)
  | out8 (v : Byte)
  | in4
  | in8
  | delay (us : Micros)
  deriving DecidableEq, Repr

/-- What an instruction is offered as: a word on one of the three channels (20_memory.md R62 to R64), or a code of the
LCD (30_encoding.md R79). Only the first two kinds are a host's to offer (R65); the rest are injections (log 11). -/
inductive Packet where
  /-- a 12-bit command word (R70) -/
  | command (w : CmdWord)
  /-- two command words: the expansion of a pseudo-instruction (R88) -/
  | commandPair (first second : CmdWord)
  /-- `pev_kind` and `pev_arg` (R63, R78) -/
  | portEvent (kind : Nibble) (arg : Byte)
  /-- `dly_us` (R64) -/
  | delayRequest (us : Micros)
  /-- an LCD instruction byte of R79 or R85 -/
  | lcdByte (v : Byte)
  /-- the lone LCD nibble of R84 -/
  | lcdNibble (n : Nibble)
  /-- the LCD code that configuration supplies: FUNCSET4 has no fixed bit (R83) -/
  | lcdParameter
  /-- bits that fit no format -/
  | malformed (nbits w : Nat)
  deriving DecidableEq, Repr

/-- Why a packet is no instruction. -/
inductive DecodeError where
  /-- the second word of a pair is not `waitbusy`, or the first is neither `wri` nor `wrd` (R88) -/
  | notAPseudoPair
  /-- a port event without operand carries a nonzero `pev_arg` (R63) -/
  | nonzeroPortArg
  /-- an LCD byte or nibble that R79, R84 and R85 do not name -/
  | unnamedLcdCode
  /-- bits that fit no format -/
  | malformedPacket
  deriving DecidableEq, Repr

end Sys2Proof
end

