-- ==== Sys2Proof/WellFormed.lean ====
section
/-! DEFINITION. Well-formed instructions: the operand ranges of the port events. Every command word is well formed. -/

namespace Sys2Proof

/-- Operand ranges: `w ∈ {4, 8}` (40_port.md R101) and a 4-bit nibble (R113). Everything else takes every operand:
ARG of INIT too, since a bad width is a command with a response (41_session.md R132). -/
def Instr.wellFormed (i : Instr) : Bool :=
  match i with
  | .init _ | .deinit _ | .writeInstr _ | .writeData _ | .readInstr _ | .readData _ | .waitBusy _ | .initCtrl _ => true
  | .reserved0 _ | .reserved9 _ | .reservedA _ | .reservedB _ | .reservedC _ | .reservedD _ | .reservedE _
  | .reservedF _ => true
  | .cwri _ | .cwrd _ => true
  | .portInit w => w == 4 || w == 8
  | .out4 n => decide (n.toNat ≤ 15)
  | .portDeinit | .setRs | .clrRs | .setRw | .clrRw | .setCe | .clrCe | .dirIn4 | .dirIn8 | .dirOut4 | .dirOut8
  | .out8 _ | .in4 | .in8 | .delay _ => true
  | .funcset8 | .dispctrl | .clear | .entry | .prelim | .funcset4 | .setDdram _ => true

end Sys2Proof
end

