-- ==== Sys2Proof/Decode.lean ====
section
/-! DEFINITION. Decoding of every packet, total, rejecting by name; then the encoder, from the same tables of the spec
(30_encoding.md R70 to R73, R78, R79, R83 to R90). -/

namespace Sys2Proof

/-- OP, bits 11:8 of a command word (R70). -/
def opField (w : CmdWord) : Nibble := w.extractLsb' 8 4

/-- ARG, bits 7:0 of a command word (R70). -/
def argField (w : CmdWord) : Byte := w.extractLsb' 0 8

/-- The command word with OP and ARG (R70). -/
def cmdWord (op : Nibble) (arg : Byte) : CmdWord := op ++ arg

/-- R90 and R73: every 12-bit word is one of the eight commands or reserved. -/
def decodeCommand (w : CmdWord) : Instr :=
  match (opField w).toNat with
  | 0x0 => .reserved0 (argField w)
  | 0x1 => .init (argField w)
  | 0x2 => .deinit (argField w)
  | 0x3 => .writeInstr (argField w)
  | 0x4 => .writeData (argField w)
  | 0x5 => .readInstr (argField w)
  | 0x6 => .readData (argField w)
  | 0x7 => .waitBusy (argField w)
  | 0x8 => .initCtrl (argField w)
  | 0x9 => .reserved9 (argField w)
  | 0xA => .reservedA (argField w)
  | 0xB => .reservedB (argField w)
  | 0xC => .reservedC (argField w)
  | 0xD => .reservedD (argField w)
  | 0xE => .reservedE (argField w)
  | _ => .reservedF (argField w)

/-- The word `waitbusy` (R87). -/
def waitBusyWord : CmdWord := 0x700

/-- R88: `wri v` or `wrd v`, then `waitbusy`. -/
def decodePair (first second : CmdWord) : Except DecodeError Instr :=
  if second = waitBusyWord then
    match (opField first).toNat with
    | 0x3 => .ok (.cwri (argField first))
    | 0x4 => .ok (.cwrd (argField first))
    | _ => .error .notAPseudoPair
  else .error .notAPseudoPair

/-- An event whose `pev_arg` is 0 (20_memory.md R63). -/
def argless (arg : Byte) (i : Instr) : Except DecodeError Instr :=
  if arg = 0 then .ok i else .error .nonzeroPortArg

/-- The `pev_kind` codes of R78. -/
def decodePortEvent (kind : Nibble) (arg : Byte) : Except DecodeError Instr :=
  match kind.toNat with
  | 0x0 => .ok (.portInit arg)
  | 0x1 => argless arg .portDeinit
  | 0x2 => argless arg .setRs
  | 0x3 => argless arg .clrRs
  | 0x4 => argless arg .setRw
  | 0x5 => argless arg .clrRw
  | 0x6 => argless arg .setCe
  | 0x7 => argless arg .clrCe
  | 0x8 => argless arg .dirIn4
  | 0x9 => argless arg .dirIn8
  | 0xA => argless arg .dirOut4
  | 0xB => argless arg .dirOut8
  | 0xC => .ok (.out4 arg)
  | 0xD => .ok (.out8 arg)
  | 0xE => argless arg .in4
  | _ => argless arg .in8

/-- FUNCSET8 (R79). -/
def codeFuncset8 : Byte := 0x3C
/-- DISPCTRL (R79). -/
def codeDispctrl : Byte := 0x0C
/-- CLEAR (R79). -/
def codeClear : Byte := 0x01
/-- ENTRY (R79). -/
def codeEntry : Byte := 0x06
/-- PRELIM, the nibble FUNCSET8[7:4] (R84). -/
def codePrelim : Nibble := 0x3
/-- SET_DDRAM, `0x80 | addr[6:0]` (R85). -/
def codeSetDdram (addr : BitVec 7) : Byte := (1#1) ++ addr

/-- The LCD bytes of R79 and R85. -/
def decodeLcdByte (v : Byte) : Except DecodeError Instr :=
  if v = codeFuncset8 then .ok .funcset8
  else if v = codeDispctrl then .ok .dispctrl
  else if v = codeClear then .ok .clear
  else if v = codeEntry then .ok .entry
  else if v.getLsbD 7 then .ok (.setDdram (v.extractLsb' 0 7))
  else .error .unnamedLcdCode

/-- Decoding is total: an instruction, or the name of what is wrong. -/
def decode (p : Packet) : Except DecodeError Instr :=
  match p with
  | .command w => .ok (decodeCommand w)
  | .commandPair first second => decodePair first second
  | .portEvent kind arg => decodePortEvent kind arg
  | .delayRequest us => .ok (.delay us)
  | .lcdByte v => decodeLcdByte v
  | .lcdNibble n => if n = codePrelim then .ok .prelim else .error .unnamedLcdCode
  | .lcdParameter => .ok .funcset4
  | .malformed _ _ => .error .malformedPacket

/-- The packet of an instruction. -/
def encode (i : Instr) : Packet :=
  match i with
  | .init arg => .command (cmdWord 0x1 arg)
  | .deinit arg => .command (cmdWord 0x2 arg)
  | .writeInstr v => .command (cmdWord 0x3 v)
  | .writeData v => .command (cmdWord 0x4 v)
  | .readInstr arg => .command (cmdWord 0x5 arg)
  | .readData arg => .command (cmdWord 0x6 arg)
  | .waitBusy arg => .command (cmdWord 0x7 arg)
  | .initCtrl arg => .command (cmdWord 0x8 arg)
  | .reserved0 arg => .command (cmdWord 0x0 arg)
  | .reserved9 arg => .command (cmdWord 0x9 arg)
  | .reservedA arg => .command (cmdWord 0xA arg)
  | .reservedB arg => .command (cmdWord 0xB arg)
  | .reservedC arg => .command (cmdWord 0xC arg)
  | .reservedD arg => .command (cmdWord 0xD arg)
  | .reservedE arg => .command (cmdWord 0xE arg)
  | .reservedF arg => .command (cmdWord 0xF arg)
  | .cwri v => .commandPair (cmdWord 0x3 v) waitBusyWord
  | .cwrd v => .commandPair (cmdWord 0x4 v) waitBusyWord
  | .portInit w => .portEvent 0x0 w
  | .portDeinit => .portEvent 0x1 0
  | .setRs => .portEvent 0x2 0
  | .clrRs => .portEvent 0x3 0
  | .setRw => .portEvent 0x4 0
  | .clrRw => .portEvent 0x5 0
  | .setCe => .portEvent 0x6 0
  | .clrCe => .portEvent 0x7 0
  | .dirIn4 => .portEvent 0x8 0
  | .dirIn8 => .portEvent 0x9 0
  | .dirOut4 => .portEvent 0xA 0
  | .dirOut8 => .portEvent 0xB 0
  | .out4 n => .portEvent 0xC n
  | .out8 v => .portEvent 0xD v
  | .in4 => .portEvent 0xE 0
  | .in8 => .portEvent 0xF 0
  | .delay us => .delayRequest us
  | .funcset8 => .lcdByte codeFuncset8
  | .dispctrl => .lcdByte codeDispctrl
  | .clear => .lcdByte codeClear
  | .entry => .lcdByte codeEntry
  | .prelim => .lcdNibble codePrelim
  | .funcset4 => .lcdParameter
  | .setDdram addr => .lcdByte (codeSetDdram addr)

/-- The packet that the opcode table's `nbits` bits `w` stand for. Twelve bits in two bytes are a command word; two
command words are a pair, side by side in three bytes or in a cell of two bytes each, the FIRST word (`wri` or `wrd`) in
the low bits and `waitbusy` above it, which no file of spec/ says (DESIGN CHOICE); one byte below 16 is a `pev_kind`
with `pev_arg` 0, any other byte an LCD code. Log 14. -/
def packetOfTableWord (nbits w : Nat) : Packet :=
  if nbits ≤ 8 then
    if w < 16 then .portEvent (BitVec.ofNat 4 w) 0
    else if w < 256 then .lcdByte (BitVec.ofNat 8 w)
    else .malformed nbits w
  else if nbits ≤ 16 then
    if w < 4096 then .command (BitVec.ofNat 12 w) else .malformed nbits w
  else if nbits ≤ 24 then
    if w < 16777216 then .commandPair (BitVec.ofNat 12 w) (BitVec.ofNat 12 (w / 4096)) else .malformed nbits w
  else if nbits ≤ 32 then
    if w % 65536 < 4096 ∧ w / 65536 < 4096 then
      .commandPair (BitVec.ofNat 12 w) (BitVec.ofNat 12 (w / 65536))
    else .malformed nbits w
  else .malformed nbits w

/-- The instruction this decoder reads from the table's bits. -/
def decodeTableWord (nbits w : Nat) : Option Instr :=
  match decode (packetOfTableWord nbits w) with
  | .ok i => some i
  | .error _ => none

end Sys2Proof
end

