-- ==== Sys2Proof/Config.lean ====
section
/-! DEFINITION. Configuration of one implementation (00_scope.md R8 to R11), its open values, and the free values: the LCD
module's answers (40_port.md R115, R116) and the registers DEINIT leaves unspecified (10_state.md R35). Log 3, 4, 7. -/

namespace Sys2Proof

/-- The implementation parameters of R11. They are configuration: no command changes them. -/
structure Config where
  /-- BUSY_RETRY_MAX, written N: the most samples one poll takes (R8). -/
  busyRetryMax : Nat
  /-- DELAY_FS1_US (R9), below 2^16 (20_memory.md R64). -/
  delayFs1Us : Micros
  /-- DELAY_FS2_US (R9), below 2^16 (20_memory.md R64). -/
  delayFs2Us : Micros
  /-- FUNCSET4_CODE (R10). -/
  funcset4Code : Byte
  deriving DecidableEq, Repr

/-- R8: N must satisfy N ≥ 1. -/
def Config.valid (c : Config) : Bool :=
  match c.busyRetryMax with
  | 0 => false
  | _ + 1 => true

/-- Free value: BUSY_RETRY_MAX minus one. R8 leaves N OPEN but for N ≥ 1. DESIGN CHOICE of form, log 4. -/
opaque Config.retriesAfterFirst : Nat

/-- Free value: FUNCSET4_CODE, which R10 leaves OPEN. Log 4. -/
opaque Config.openFuncset4 : Byte

/-- Free value: what the LCD module puts on pev_rdata at the n-th draw that no listed answer covers (R115, R116). Log 3. -/
opaque Config.lcdAnswer : Nat → Byte

/-- Free value: SAMPLE after a DEINIT that leaves it unspecified (10_state.md R35), by a number no two DEINITs share. Log 7. -/
opaque Config.unspecifiedSample : Nat → Byte

/-- Free value: HI after a DEINIT (10_state.md R35). Log 7. -/
opaque Config.unspecifiedHi : Nat → Nibble

/-- Free value: K after a DEINIT, before the bound of 10_state.md R28 is applied to it (R35). Log 7. -/
opaque Config.unspecifiedCount : Nat → Nat

/-- The configuration a reset machine has: the defaults of R9, and the OPEN parameters left open. -/
def Config.board : Config :=
  { busyRetryMax := Config.retriesAfterFirst + 1
    delayFs1Us := 39
    delayFs2Us := 37
    funcset4Code := Config.openFuncset4 }

end Sys2Proof
end

