-- ==== Sys2Proof/Machine/State.lean ====
section
/-! DEFINITION. The state of the block (10_state.md), its channels (20_memory.md R62 to R64), the reasons a step can stop,
and the state after power-on reset (R35, 70_reset_and_hazards.md R280). -/

namespace Sys2Proof.Machine

/-- MODE (R21). 0b11 is never held, so it is no value here. -/
inductive Mode where
  | undef
  | m4
  | m8
  deriving DecidableEq, Repr

/-- The 2-bit code of MODE (R21). -/
def Mode.code (m : Mode) : BitVec 2 :=
  match m with
  | .undef => 0b00
  | .m4 => 0b01
  | .m8 => 0b10

/-- A control line: 0, 1, or U, a level the model does not fix (00_scope.md R13). -/
inductive Level where
  | low
  | high
  | u
  deriving DecidableEq, Repr

/-- A data direction register: U, IN or OUT (R23). -/
inductive Dir where
  | u
  | input
  | output
  deriving DecidableEq, Repr

/-- DOUT: 8 bits in M8, 4 bits in M4, U otherwise (R24). -/
inductive Latch where
  | u
  | nibble (n : Nibble)
  | byte (v : Byte)
  deriving DecidableEq, Repr

/-- What the block drives on the port: the control lines (R22), the data directions (R23) and the output latch (R24). -/
structure Lines where
  rs : Level
  rw : Level
  ce : Level
  dir4 : Dir
  dir8 : Dir
  dout : Latch
  deriving DecidableEq, Repr

/-- RSP_STATUS (30_encoding.md R76). -/
inductive Status where
  | ok
  | timeout
  | contract
  | notInit
  deriving DecidableEq, Repr

/-- The 2-bit code of RSP_STATUS (30_encoding.md R76). -/
def Status.code (st : Status) : BitVec 2 :=
  match st with
  | .ok => 0b00
  | .timeout => 0b01
  | .contract => 0b10
  | .notInit => 0b11

/-- A response word (30_encoding.md R75). -/
structure Response where
  status : Status
  data : Byte
  deriving DecidableEq, Repr

/-- The ten bits `{RSP_STATUS[1:0], RSP_DATA[7:0]}` (30_encoding.md R75). -/
def Response.word (r : Response) : BitVec 10 := r.status.code ++ r.data

/-- The command being executed, as SEQ names it (R30, 30_encoding.md R72, R73): an accepted reserved OP is one too. -/
inductive Op where
  | init
  | deinit
  | writeInstr
  | writeData
  | readInstr
  | readData
  | waitBusy
  | initCtrl
  | reserved (code : Nibble)
  deriving DecidableEq, Repr

/-- The OP code of a command (30_encoding.md R72, R73). -/
def Op.code (op : Op) : Nibble :=
  match op with
  | .init => 0x1
  | .deinit => 0x2
  | .writeInstr => 0x3
  | .writeData => 0x4
  | .readInstr => 0x5
  | .readData => 0x6
  | .waitBusy => 0x7
  | .initCtrl => 0x8
  | .reserved code => code

/-- SEQ, the sequencer state (R30): j is the index of the next event in the command's event list, and i is the same place
counted from the start of IS's current step, which refines the position of INIT_CTRL (for every other command i = j). `bound` is
what the running procedure's last In4() or In8() bound (00_scope.md R14), held until a later event uses it. Log 9. -/
inductive Seq where
  | idle
  | run (op : Op) (arg : Byte) (j i : Nat) (bound : Byte)
  deriving DecidableEq, Repr

/-- IS, the initialization-FSM state (R31). Codes 0xC to 0xF are never held, so they are no values here. -/
inductive InitState where
  | idle
  | pre
  | fs1
  | d1
  | fs2
  | d2
  | dc
  | dcP
  | clr
  | clrP
  | em
  | emP
  deriving DecidableEq, Repr

/-- The 4-bit code of IS (R31). -/
def InitState.code (x : InitState) : Nibble :=
  match x with
  | .idle => 0x0
  | .pre => 0x1
  | .fs1 => 0x2
  | .d1 => 0x3
  | .fs2 => 0x4
  | .d2 => 0x5
  | .dc => 0x6
  | .dcP => 0x7
  | .clr => 0x8
  | .clrP => 0x9
  | .em => 0xA
  | .emP => 0xB

/-- One emitted event with, for IN4 and IN8, the value the LCD module answered (00_scope.md R15). -/
structure Event where
  op : PortOp
  answer : Option Byte
  deriving DecidableEq, Repr

/-- How much one step of the model runs: one port event (00_scope.md R7) or one whole command. The events, their order
and the end state are the same (log 1). -/
inductive Pace where
  | event
  | command
  deriving DecidableEq, Repr

/-- The whole state. The block's registers come first, then what has been observed of it, then its inputs, its
configuration, and the model's own two fields. -/
structure State where
  /-- MODE (R21). -/
  mode : Mode
  /-- RS, RW, CE, DIR4, DIR8, DOUT (R22 to R24). -/
  lines : Lines
  /-- SAMPLE (R27). -/
  sample : Byte
  /-- HI (R27). -/
  hi : Nibble
  /-- K, an unbounded natural (R28). -/
  k : Nat
  /-- RSP_STATUS (R29). -/
  rspStatus : Status
  /-- RSP_DATA (R29). -/
  rspData : Byte
  /-- SEQ (R30). -/
  seq : Seq
  /-- IS (R31). -/
  is : InitState
  /-- FAULT (R32). -/
  fault : Bool
  /-- rsp_valid (20_memory.md R62). -/
  rspValid : Bool
  /-- The events emitted so far, oldest first (00_scope.md R7). -/
  trace : List Event
  /-- The responses the host has taken, oldest first (00_scope.md R7). -/
  delivered : List Response
  /-- Input: the words the host has still to offer; cmd_valid says it is not empty (20_memory.md R62). -/
  queue : List Packet
  /-- Input: rsp_ready (20_memory.md R62). -/
  rspReady : Bool
  /-- Input: pev_rdata of the coming IN events (20_memory.md R63). -/
  answers : List Byte
  /-- Input: power-on reset is asserted (70_reset_and_hazards.md R281). -/
  resetReq : Bool
  /-- The configuration; no step writes it (00_scope.md R11). -/
  cfg : Config
  /-- The model's own: LCD answers drawn so far, the argument of the free value (log 3). -/
  draws : Nat
  /-- The model's own: how much one step runs (log 1). -/
  pace : Pace
  deriving DecidableEq, Repr

/-- Why the model stops with a fault. All are safe: the model stops where hardware would go on in a way the spec leaves
undefined. The first five are the port contract violations of 40_port.md R118, raised by `emit`; the block's own event
lists contain none. -/
inductive Fault where
  /-- PORT_INIT with w ∉ {4, 8}. Raised by PORT_INIT. Safe. -/
  | badPortWidth
  /-- An event other than PORT_INIT or PORT_DEINIT while MODE = UNDEF. Raised by every other event. Safe. -/
  | eventOutsideSession
  /-- An event of the width the port was not initialised for. Raised by the data and direction events. Safe. -/
  | wrongWidth
  /-- An OUT4 value above 0xF. Raised by OUT4. Safe. -/
  | outValueTooWide
  /-- IN while that width's DIR is not IN. Raised by IN4 and IN8. Safe. -/
  | inputWhileNotInput
  /-- SEQ = RUN at a position no command has (10_state.md R30): held in no run. Raised by `tick`. Safe. Log 9. -/
  | seqPositionNotHeld
  deriving DecidableEq, Repr

/-- Why the model gives a step no meaning. All are safe. -/
inductive Refusal where
  /-- An instruction without a meaning. Raised by `exec` alone; no arm raises it now. Safe. -/
  | notModelled (mnemonic : String)
  /-- N = 0: "a model refuses a configuration with N = 0" (00_scope.md R8). Raised by `step` and by a poll. Safe. -/
  | retryCeilingZero
  /-- The packet offered is no encoding. Raised by `step`. Safe. Log 24. -/
  | notAnInstruction (why : DecodeError)
  deriving DecidableEq, Repr

/-- Every line undefined: the column "after power-on reset" of R35. -/
def Lines.floating : Lines :=
  { rs := .u, rw := .u, ce := .u, dir4 := .u, dir8 := .u, dout := .u }

/-- The machine after power-on reset (R35, R280). SAMPLE, HI, K and the response registers, which R35 leaves unspecified,
are zero (log 6); the inputs are quiet (log 18). -/
def State.reset : State :=
  { mode := .undef
    lines := Lines.floating
    sample := 0
    hi := 0
    k := 0
    rspStatus := .ok
    rspData := 0
    seq := .idle
    is := .idle
    fault := false
    rspValid := false
    trace := []
    delivered := []
    queue := []
    rspReady := true
    answers := []
    resetReq := false
    cfg := Config.board
    draws := 0
    pace := .event }

end Sys2Proof.Machine
end

