-- ==== Sys2Proof/Machine/Flags.lean ====
section
/-! DEFINITION. The block has no condition flags (10_state.md R26). Here are the busy test on a sample (R25, 44_busy_poll.md
R192, R193) and the one flag commands write, FAULT (R32). -/

namespace Sys2Proof.Machine

/-- The busy flag of a busy/address byte: bit 7 (R25, R192). -/
def busy (v : Byte) : Bool := v.getLsbD 7

/-- A poll takes no further sample: the last one is ready, or N have been taken (R190, R193). -/
def pollOver (s : State) : Bool := !busy s.sample || decide (s.k = s.cfg.busyRetryMax)

/-- The result of a poll that is over: OK when its last sample is ready, else TIMEOUT (R193). -/
def pollStatus (s : State) : Status := if busy s.sample then .timeout else .ok

/-- `FAULT <- 1`; nothing but a power-on reset clears it (R32). -/
def setFault (s : State) : State := { s with fault := true }

end Sys2Proof.Machine
end

