-- ==== Sys2Proof/Machine/Operands.lean ====
section
/-! DEFINITION. The operand forms: nibble split and recombination (20_memory.md R52, 43_read.md R173), the bus width of
INIT (30_encoding.md R71), and the register-select level (20_memory.md R50). -/

namespace Sys2Proof.Machine

/-- `v[7:4]`, the nibble that travels first (R52). -/
def highNibble (v : Byte) : Nibble := v.extractLsb' 4 4

/-- `v[3:0]`, the nibble that travels second (R52). -/
def lowNibble (v : Byte) : Nibble := v.extractLsb' 0 4

/-- `zext_8(n)` (00_scope.md R12). -/
def zext8 (n : Nibble) : Byte := n.setWidth 8

/-- `(hi << 4) | lo` (R52, R173). -/
def joinNibbles (hi lo : Nibble) : Byte := (zext8 hi <<< 4) ||| zext8 lo

/-- The mode INIT's ARG selects: 4 or 8, nothing else (30_encoding.md R71, 41_session.md R132). -/
def busWidth (arg : Byte) : Option Mode :=
  if arg = 4 then some .m4 else if arg = 8 then some .m8 else none

/-- The register-select event: RS = 0 the instruction side, RS = 1 the data side (R50). -/
def regSelect (rs : Bool) : PortOp := if rs then .setRs else .clrRs

end Sys2Proof.Machine
end

