-- ==== Sys2Proof/Machine/Ops.lean ====
section
/-! DEFINITION. The shared operations: emitting a port event (40_port.md), responding (30_encoding.md R75), the contract
fault and the NOT_INIT stub (60_exceptions.md R262, R263: the block has no trap, R266, so these are what taking an
exception is here), and the cycle procedures (42_write.md, 43_read.md, 44_busy_poll.md). -/

namespace Sys2Proof.Machine

/-- What a step of the machine answers. -/
abbrev Result := Host.Outcome State Fault Refusal

/-- Sequencing (00_scope.md R14): the second part runs on the state the first leaves. -/
def andThen (r : Result) (f : State → Result) : Result :=
  match r with
  | .next s => f s
  | .fault x => .fault x
  | .refused x => .refused x

/-! ## The LCD module's answers -/

/-- pev_rdata of the i-th IN event from now on: the listed answer, else a free value (40_port.md R115, R116; log 3). -/
def rdataAt (s : State) (i : Nat) : Byte :=
  match s.answers[i]? with
  | some v => v
  | none => Config.lcdAnswer (s.draws + i)

/-- pev_rdata of the next IN event. -/
def rdata (s : State) : Byte := rdataAt s 0

/-- The value the next IN event binds: all of pev_rdata for IN8, `pev_rdata[3:0]` for IN4 (20_memory.md R63). -/
def answerOf (op : PortOp) (s : State) : Option Byte :=
  match op with
  | .in4 => some (zext8 (lowNibble (rdata s)))
  | .in8 => some (rdata s)
  | _ => none

/-- An IN event uses up one draw; no two are assumed related (20_memory.md R57). -/
def drawAnswer (op : PortOp) (s : State) : State :=
  match op with
  | .in4 | .in8 => { s with answers := s.answers.tail, draws := s.draws + 1 }
  | _ => s

/-! ## Port events -/

/-- The effect of an event on the lines: the pseudocode of 40_port.md R101 to R117. -/
def performLines (op : PortOp) (l : Lines) : Lines :=
  match op with
  | .portInit w =>
    if w = 8 then { l with ce := .low, rs := .low, rw := .high, dir8 := .input, dout := .u }
    else { l with ce := .low, rs := .low, rw := .high, dir4 := .input, dout := .u }
  | .portDeinit => Lines.floating
  | .setRs => { l with rs := .high }
  | .clrRs => { l with rs := .low }
  | .setRw => { l with rw := .high }
  | .clrRw => { l with rw := .low }
  | .setCe => { l with ce := .high }
  | .clrCe => { l with ce := .low }
  | .dirIn4 => { l with dir4 := .input }
  | .dirIn8 => { l with dir8 := .input }
  | .dirOut4 => { l with dir4 := .output }
  | .dirOut8 => { l with dir8 := .output }
  | .out4 n => { l with dout := .nibble (lowNibble n) }
  | .out8 v => { l with dout := .byte v }
  | .in4 => l
  | .in8 => l
  | .delay _ => l

/-- An event of a width is legal in that width's mode only (R118). -/
def needMode (m : Mode) (s : State) : Option Fault := if s.mode = m then none else some .wrongWidth

/-- The port contract violations of R118. -/
def violation (op : PortOp) (s : State) : Option Fault :=
  match op with
  | .portInit w => if (busWidth w).isSome then none else some .badPortWidth
  | .portDeinit => none
  | op =>
    if s.mode = .undef then some .eventOutsideSession
    else
      match op with
      | .dirIn4 | .dirOut4 => needMode .m4 s
      | .dirIn8 | .dirOut8 | .out8 _ => needMode .m8 s
      | .out4 n =>
        match needMode .m4 s with
        | some x => some x
        | none => if n.toNat ≤ 15 then none else some .outValueTooWide
      | .in4 =>
        match needMode .m4 s with
        | some x => some x
        | none => if s.lines.dir4 = .input then none else some .inputWhileNotInput
      | .in8 =>
        match needMode .m8 s with
        | some x => some x
        | none => if s.lines.dir8 = .input then none else some .inputWhileNotInput
      | _ => none

/-- Perform an event: the lines change, the event and its answer join the trace, an IN uses up its answer. -/
def perform (op : PortOp) (s : State) : State :=
  drawAnswer op { s with lines := performLines op s.lines, trace := s.trace ++ [⟨op, answerOf op s⟩] }

/-- `Emit(ev)` (00_scope.md R14). Its acknowledge is part of the step (log 2). A port contract violation is a fault of the
model (R118); otherwise every event is performed, redundant ones too (R119). -/
def emit (op : PortOp) (s : State) : Result :=
  match violation op s with
  | some x => .fault x
  | none => .next (perform op s)

/-- Emit the events of a list, one at a time and in order (20_memory.md R59). -/
def emitAll (ops : List PortOp) (s : State) : Result :=
  match ops with
  | [] => .next s
  | op :: rest => andThen (emit op s) (emitAll rest)

/-! ## Responses -/

/-- `respond(status, data)`: write the response registers, offer the response, return SEQ to IDLE (30_encoding.md R75,
10_state.md R30). -/
def respond (st : Status) (d : Byte) (s : State) : State :=
  { s with rspStatus := st, rspData := d, rspValid := true, seq := .idle }

/-- `raise ContractFault`: response (CONTRACT, 0x00), FAULT set, no event, nothing else (60_exceptions.md R263). -/
def raiseContractFault (s : State) : State := setFault (respond .contract 0x00 s)

/-- The NOT_INIT stub: response (NOT_INIT, 0xFF), FAULT set, no event, nothing else (41_session.md R131). -/
def notInitStub (s : State) : State := setFault (respond .notInit 0xFF s)

/-- The response waiting on the command channel. -/
def waiting (s : State) : Response := ⟨s.rspStatus, s.rspData⟩

/-- The host takes the waiting response (20_memory.md R62). -/
def takeResponse (s : State) : State :=
  { s with rspValid := false, delivered := s.delivered ++ [waiting s] }

/-- The session's scratch registers end with it: SAMPLE, HI and K are free values, K within its range 0 to N (10_state.md R28,
R35; 60_exceptions.md R275). The number of events so far tells one DEINIT from the next. Log 7. -/
def forgetScratch (s : State) : State :=
  { s with
    sample := Config.unspecifiedSample s.trace.length
    hi := Config.unspecifiedHi s.trace.length
    k := Config.unspecifiedCount s.trace.length % (s.cfg.busyRetryMax + 1) }

/-- cmd_ready: SEQ = IDLE and no response waiting (20_memory.md R62). -/
def cmdReady (s : State) : Bool := decide (s.seq = .idle) && !s.rspValid

/-- Power-on reset: every register of the block at its reset value, the running command abandoned without a response, no
event emitted (70_reset_and_hazards.md R280, R281). What lies outside the block stays (log 19). -/
def powerOnReset (s : State) : State :=
  { State.reset with
    trace := s.trace, delivered := s.delivered, queue := s.queue, rspReady := s.rspReady, answers := s.answers,
    cfg := s.cfg, draws := s.draws, pace := s.pace }

/-- What the block drives on the data pins: DOUT while the bound width's DIR is OUT, else nothing (40_port.md R120,
10_state.md R24). -/
def dataPins (s : State) : Latch :=
  match s.mode with
  | .undef => .u
  | .m4 => if s.lines.dir4 = .output then s.lines.dout else .u
  | .m8 => if s.lines.dir8 = .output then s.lines.dout else .u

/-! ## Write cycles (42_write.md) -/

/-- W8(rs, v): 8 events (R150). -/
def w8 (rs : Bool) (v : Byte) : List PortOp :=
  [regSelect rs, .clrRw, .setCe, .out8 v, .dirOut8, .clrCe, .dirIn8, .setRw]

/-- W4(rs, v): 11 events, high nibble first (R151). -/
def w4 (rs : Bool) (v : Byte) : List PortOp :=
  [regSelect rs, .clrRw, .setCe, .out4 (zext8 (highNibble v)), .dirOut4, .clrCe,
   .setCe, .out4 (zext8 (lowNibble v)), .clrCe, .dirIn4, .setRw]

/-- W4N(rs, n): the single-nibble write, 8 events (R152). -/
def w4n (rs : Bool) (n : Nibble) : List PortOp :=
  [regSelect rs, .clrRw, .setCe, .out4 (zext8 n), .dirOut4, .clrCe, .dirIn4, .setRw]

/-- The write cycle of a mode (41_session.md R130: M8, else the 4-bit form). -/
def writeEvents (m : Mode) (rs : Bool) (v : Byte) : List PortOp :=
  match m with
  | .m8 => w8 rs v
  | _ => w4 rs v

/-- The write cycle of the bound width. -/
def writeCycle (rs : Bool) (v : Byte) (s : State) : Result := emitAll (writeEvents s.mode rs v) s

/-! ## Read cycles (43_read.md) -/

/-- The events of R8(rs): 5, none of them a direction event (R170, R172). -/
def r8 (rs : Bool) : List PortOp := [regSelect rs, .setRw, .setCe, .in8, .clrCe]

/-- The events of R4(rs): 8 (R171). -/
def r4 (rs : Bool) : List PortOp := [regSelect rs, .setRw, .setCe, .in4, .clrCe, .setCe, .in4, .clrCe]

/-- R8(rs): `v <- In8()`, then `SAMPLE <- v` (R170). -/
def readCycle8 (rs : Bool) (s : State) : Result :=
  andThen (emitAll [regSelect rs, .setRw, .setCe] s) fun s =>
  let v := rdata s
  andThen (emitAll [.in8, .clrCe] s) fun s =>
  .next { s with sample := v }

/-- One 4-bit sample, two CE pulses: `HI <- In4()`, `lo <- In4()`, `SAMPLE <- (HI << 4) | lo` (R171, R191). The first CE pulse
is opened here. -/
def sampleNibbles (s : State) : Result :=
  andThen (emit .setCe s) fun s =>
  let high := lowNibble (rdata s)
  andThen (emitAll [.in4, .clrCe, .setCe] { s with hi := high }) fun s =>
  let low := lowNibble (rdata s)
  andThen (emitAll [.in4, .clrCe] s) fun s =>
  .next { s with sample := joinNibbles s.hi low }

/-- R4(rs): high nibble, then low nibble, recombined into SAMPLE (R171). -/
def readCycle4 (rs : Bool) (s : State) : Result :=
  andThen (emitAll [regSelect rs, .setRw] s) sampleNibbles

/-- The read cycle of the bound width; its result is SAMPLE. -/
def readCycle (rs : Bool) (s : State) : Result :=
  match s.mode with
  | .m8 => readCycle8 rs s
  | _ => readCycle4 rs s

/-! ## Busy polls (44_busy_poll.md) -/

/-- One 8-bit sample with CE held: `v <- In8(); SAMPLE <- v; K <- K + 1` (R190). -/
def sampleByte (s : State) : Result :=
  let v := rdata s
  andThen (emit .in8 s) fun s => .next { s with sample := v, k := s.k + 1 }

/-- The loop of POLL8, with as many samples left as the first argument says: leave on a ready sample or at K = N, clearing CE
(R190). With none allowed at all the configuration has N = 0, which R8 refuses. -/
def pollLoop8 (left : Nat) (s : State) : Result :=
  match left with
  | 0 => .refused .retryCeilingZero
  | left + 1 =>
    andThen (sampleByte s) fun s =>
    if pollOver s then emit .clrCe s else pollLoop8 left s

/-- POLL8() (R190). -/
def poll8 (s : State) : Result :=
  andThen (emitAll [.clrRs, .setRw, .setCe] s) fun s =>
  pollLoop8 s.cfg.busyRetryMax { s with k := 0 }

/-- The loop of POLL4 (R191). -/
def pollLoop4 (left : Nat) (s : State) : Result :=
  match left with
  | 0 => .refused .retryCeilingZero
  | left + 1 =>
    andThen (sampleNibbles s) fun s =>
    let s := { s with k := s.k + 1 }
    if pollOver s then .next s else pollLoop4 left s

/-- POLL4() (R191). -/
def poll4 (s : State) : Result :=
  andThen (emitAll [.clrRs, .setRw] s) fun s =>
  pollLoop4 s.cfg.busyRetryMax { s with k := 0 }

/-- The poll of the bound width; its result is `pollStatus`. -/
def pollCycle (s : State) : Result :=
  match s.mode with
  | .m8 => poll8 s
  | _ => poll4 s

/-! ## Commands of the operation set -/

/-- R130, R131: before INIT the stub answers; otherwise the bound form runs. -/
def inSession (s : State) (bound : Result) : Result :=
  if s.mode = .undef then .next (notInitStub s) else bound

/-- A write command: the cycle, then (OK, 0x00), with no poll (42_write.md R154 to R156). -/
def writeCommand (rs : Bool) (v : Byte) (s : State) : Result :=
  inSession s <| andThen (writeCycle rs v s) fun s => .next (respond .ok 0x00 s)

/-- A read command: the cycle, then (OK, v) (43_read.md R174, R175). -/
def readCommand (rs : Bool) (s : State) : Result :=
  inSession s <| andThen (readCycle rs s) fun s => .next (respond .ok s.sample s)

/-- The poll command: the poll, then (r, 0x00) (44_busy_poll.md R194). -/
def pollCommand (s : State) : Result :=
  inSession s <| andThen (pollCycle s) fun s => .next (respond (pollStatus s) 0x00 s)

end Sys2Proof.Machine
end

