-- ==== Sys2Proof/Machine/InitCtrl.lean ====
section
/-! DEFINITION. The controller-initialization command (45_init_fsm.md). -/

namespace Sys2Proof.Machine

/-- `IS <- x`, then a part of the sequence (R211 to R214). -/
def atState (x : InitState) (s : State) (part : State → Result) : Result := part { s with is := x }

/-- The function-set code of the bound width: 0x3C in M8 (R211), FUNCSET4_CODE in M4 (R214). -/
def funcsetCode (s : State) : Byte :=
  match s.mode with
  | .m8 => codeFuncset8
  | _ => s.cfg.funcset4Code

/-- The end of INIT_CTRL: IS back to IS_IDLE, response (r, 0x00) with the last poll's result (R216). -/
def finishInitCtrl (s : State) : State := respond (pollStatus s) 0x00 { s with is := .idle }

/-- A busy-checked write of the tail (44_busy_poll.md R195): write at one IS state, poll at the next, then go on, or end
at once when the poll timed out (R213, R217). -/
def checkedWrite (write poll : InitState) (v : Byte) (next : State → Result) (s : State) : Result :=
  andThen (atState write s (writeCycle false v)) fun s =>
  andThen (atState poll s pollCycle) fun s =>
  if pollStatus s = .timeout then .next (finishInitCtrl s) else next s

/-- TAIL() (R213). -/
def initTail (s : State) : Result :=
  checkedWrite .dc .dcP codeDispctrl
    (checkedWrite .clr .clrP codeClear
      (checkedWrite .em .emP codeEntry fun s => .next (finishInitCtrl s))) s

/-- The two function-set writes, each followed by its delay and none by a poll (R210, R211, R214). -/
def initFunctionSets (s : State) : Result :=
  andThen (atState .fs1 s fun s => writeCycle false (funcsetCode s) s) fun s =>
  andThen (atState .d1 s fun s => emit (.delay s.cfg.delayFs1Us) s) fun s =>
  andThen (atState .fs2 s fun s => writeCycle false (funcsetCode s) s) fun s =>
  atState .d2 s fun s => emit (.delay s.cfg.delayFs2Us) s

/-- INIT8() (R211). -/
def init8 (s : State) : Result := andThen (initFunctionSets s) initTail

/-- INIT4() (R214): the preliminary nibble first (R212). -/
def init4 (s : State) : Result :=
  andThen (atState .pre s (emitAll (w4n false codePrelim))) fun s =>
  andThen (initFunctionSets s) initTail

/-- INIT_CTRL (R216). ARG is ignored (30_encoding.md R74). -/
def execInitCtrl (_arg : Byte) (s : State) : Result :=
  inSession s <|
    match s.mode with
    | .m8 => init8 s
    | _ => init4 s

end Sys2Proof.Machine
end

