-- ==== Sys2Proof/Machine/LcdCode.lean ====
section
/-! DEFINITION. The LCD codes as instructions of their own (30_encoding.md R79, R83 to R85): the cycle that puts the code on
the bus. The codes of the initialization are its write cycles and have no response; SET_DDRAM is a WRITE_INSTR byte.
Log 12 and 13. -/

namespace Sys2Proof.Machine

/-- FUNCSET8: the instruction write of 0x3C (R79, 45_init_fsm.md R211). -/
def execFuncset8 (s : State) : Result := writeCycle false codeFuncset8 s

/-- DISPCTRL: the instruction write of 0x0C (R79, 45_init_fsm.md R213). -/
def execDispctrl (s : State) : Result := writeCycle false codeDispctrl s

/-- CLEAR: the instruction write of 0x01 (R79, 45_init_fsm.md R213). -/
def execClear (s : State) : Result := writeCycle false codeClear s

/-- ENTRY: the instruction write of 0x06 (R79, 45_init_fsm.md R213). -/
def execEntry (s : State) : Result := writeCycle false codeEntry s

/-- PRELIM: the single-nibble write of 0x3 (R84, 45_init_fsm.md R212). -/
def execPrelim (s : State) : Result := emitAll (w4n false codePrelim) s

/-- FUNCSET4: FUNCSET4_CODE written as a nibble pair (R83, 45_init_fsm.md R214). -/
def execFuncset4 (s : State) : Result := emitAll (w4 false s.cfg.funcset4Code) s

/-- SET_DDRAM: "the block sends it as any other WRITE_INSTR byte" (R85). -/
def execSetDdram (addr : BitVec 7) (s : State) : Result := writeCommand false (codeSetDdram addr) s

end Sys2Proof.Machine
end

