-- ==== Sys2Proof/Machine/Poll.lean ====
section
/-! DEFINITION. The busy-flag poller's command (44_busy_poll.md). ARG is ignored (30_encoding.md R74). -/

namespace Sys2Proof.Machine

/-- WAIT_BUSY (R194). -/
def execWaitBusy (_arg : Byte) (s : State) : Result := pollCommand s

end Sys2Proof.Machine
end

