-- ==== Sys2Proof/Machine/Port.lean ====
section
/-! DEFINITION. The port events and DELAY as instructions of their own (40_port.md): one emission each, as the sequencer makes
it. Log 11. -/

namespace Sys2Proof.Machine

/-- PORT_INIT(w) (R101). -/
def execPortInit (w : Byte) (s : State) : Result := emit (.portInit w) s

/-- PORT_DEINIT (R102). -/
def execPortDeinit (s : State) : Result := emit .portDeinit s

/-- SET_RS (R103). -/
def execSetRs (s : State) : Result := emit .setRs s

/-- CLR_RS (R104). -/
def execClrRs (s : State) : Result := emit .clrRs s

/-- SET_RW (R105). -/
def execSetRw (s : State) : Result := emit .setRw s

/-- CLR_RW (R106). -/
def execClrRw (s : State) : Result := emit .clrRw s

/-- SET_CE (R107). -/
def execSetCe (s : State) : Result := emit .setCe s

/-- CLR_CE (R108). -/
def execClrCe (s : State) : Result := emit .clrCe s

/-- DIR_IN4 (R109). -/
def execDirIn4 (s : State) : Result := emit .dirIn4 s

/-- DIR_IN8 (R110). -/
def execDirIn8 (s : State) : Result := emit .dirIn8 s

/-- DIR_OUT4 (R111). -/
def execDirOut4 (s : State) : Result := emit .dirOut4 s

/-- DIR_OUT8 (R112). -/
def execDirOut8 (s : State) : Result := emit .dirOut8 s

/-- OUT4(n) (R113). -/
def execOut4 (n : Byte) (s : State) : Result := emit (.out4 n) s

/-- OUT8(v) (R114). -/
def execOut8 (v : Byte) (s : State) : Result := emit (.out8 v) s

/-- IN4 (R115). -/
def execIn4 (s : State) : Result := emit .in4 s

/-- IN8 (R116). -/
def execIn8 (s : State) : Result := emit .in8 s

/-- DELAY(us) (R117). -/
def execDelay (us : Micros) (s : State) : Result := emit (.delay us) s

end Sys2Proof.Machine
end

