-- ==== Sys2Proof/Machine/Pseudo.lean ====
section
/-! DEFINITION. The pseudo-instructions (30_encoding.md R88): a write, then a poll, two commands with two responses. -/

namespace Sys2Proof.Machine

/-- A write command, its response taken by the host, then WAIT_BUSY, whose status is the whole's (R88). While rsp_ready = 0 the
write's response waits (20_memory.md R62), and `waitbusy` waits at the head of the host's queue. Log 17. -/
def checkedCommand (rs : Bool) (v : Byte) (s : State) : Result :=
  andThen (writeCommand rs v s) fun s =>
  if s.rspReady then pollCommand (takeResponse s) else .next { s with queue := .command waitBusyWord :: s.queue }

/-- cwri v: `wri v` then `waitbusy` (R88). -/
def execCwri (v : Byte) (s : State) : Result := checkedCommand false v s

/-- cwrd v: `wrd v` then `waitbusy` (R88). -/
def execCwrd (v : Byte) (s : State) : Result := checkedCommand true v s

end Sys2Proof.Machine
end

