-- ==== Sys2Proof/Machine/Read.lean ====
section
/-! DEFINITION. The read commands (43_read.md). ARG is ignored (30_encoding.md R74). -/

namespace Sys2Proof.Machine

/-- READ_INSTR (R174). -/
def execReadInstr (_arg : Byte) (s : State) : Result := readCommand false s

/-- READ_DATA (R175). -/
def execReadData (_arg : Byte) (s : State) : Result := readCommand true s

end Sys2Proof.Machine
end

