-- ==== Sys2Proof/Machine/Reserved.lean ====
section
/-! DEFINITION. The reserved OPs: each is a contract fault (30_encoding.md R73, 60_exceptions.md R263), checked before
anything else (R265). -/

namespace Sys2Proof.Machine

/-- OP 0x0 (R73). -/
def execReserved0 (_arg : Byte) (s : State) : Result := .next (raiseContractFault s)

/-- OP 0x9 (R73). -/
def execReserved9 (_arg : Byte) (s : State) : Result := .next (raiseContractFault s)

/-- OP 0xA (R73). -/
def execReservedA (_arg : Byte) (s : State) : Result := .next (raiseContractFault s)

/-- OP 0xB (R73). -/
def execReservedB (_arg : Byte) (s : State) : Result := .next (raiseContractFault s)

/-- OP 0xC (R73). -/
def execReservedC (_arg : Byte) (s : State) : Result := .next (raiseContractFault s)

/-- OP 0xD (R73). -/
def execReservedD (_arg : Byte) (s : State) : Result := .next (raiseContractFault s)

/-- OP 0xE (R73). -/
def execReservedE (_arg : Byte) (s : State) : Result := .next (raiseContractFault s)

/-- OP 0xF (R73). -/
def execReservedF (_arg : Byte) (s : State) : Result := .next (raiseContractFault s)

end Sys2Proof.Machine
end

