-- ==== Sys2Proof/Machine/Session.lean ====
section
/-! DEFINITION. The session commands INIT and DEINIT (41_session.md). -/

namespace Sys2Proof.Machine

/-- INIT(a) (R132): the width check, then the re-INIT check (60_exceptions.md R265), then PORT_INIT and the binding. -/
def execInit (arg : Byte) (s : State) : Result :=
  match busWidth arg with
  | none => .next (raiseContractFault s)
  | some m =>
    if s.mode ≠ .undef then .next (raiseContractFault s)
    else andThen (emit (.portInit arg) s) fun s => .next (respond .ok 0x00 { s with mode := m })

/-- DEINIT (R133): in every mode; ARG is ignored (30_encoding.md R74), FAULT is not cleared, and the scratch registers are
unspecified after it (10_state.md R35; log 7). -/
def execDeinit (_arg : Byte) (s : State) : Result :=
  andThen (emit .portDeinit s) fun s => .next (respond .ok 0x00 (forgetScratch { s with mode := .undef }))

end Sys2Proof.Machine
end

