-- ==== Sys2Proof/Machine/Write.lean ====
section
/-! DEFINITION. The write commands (42_write.md). -/

namespace Sys2Proof.Machine

/-- WRITE_INSTR v (R154). -/
def execWriteInstr (v : Byte) (s : State) : Result := writeCommand false v s

/-- WRITE_DATA v (R155). -/
def execWriteData (v : Byte) (s : State) : Result := writeCommand true v s

end Sys2Proof.Machine
end

