-- ==== Sys2Proof/Machine/Dispatch.lean ====
section
/-! DEFINITION. One arm per constructor of Instr, each a call of its meaning: the whole effect of the instruction. -/

namespace Sys2Proof.Machine

def exec (i : Instr) (s : State) : Host.Outcome State Fault Refusal :=
  match i with
  | .init arg => Sys2Proof.Machine.execInit arg s
  | .deinit arg => Sys2Proof.Machine.execDeinit arg s
  | .writeInstr v => Sys2Proof.Machine.execWriteInstr v s
  | .writeData v => Sys2Proof.Machine.execWriteData v s
  | .readInstr arg => Sys2Proof.Machine.execReadInstr arg s
  | .readData arg => Sys2Proof.Machine.execReadData arg s
  | .waitBusy arg => Sys2Proof.Machine.execWaitBusy arg s
  | .initCtrl arg => Sys2Proof.Machine.execInitCtrl arg s
  | .reserved0 arg => Sys2Proof.Machine.execReserved0 arg s
  | .reserved9 arg => Sys2Proof.Machine.execReserved9 arg s
  | .reservedA arg => Sys2Proof.Machine.execReservedA arg s
  | .reservedB arg => Sys2Proof.Machine.execReservedB arg s
  | .reservedC arg => Sys2Proof.Machine.execReservedC arg s
  | .reservedD arg => Sys2Proof.Machine.execReservedD arg s
  | .reservedE arg => Sys2Proof.Machine.execReservedE arg s
  | .reservedF arg => Sys2Proof.Machine.execReservedF arg s
  | .cwri v => Sys2Proof.Machine.execCwri v s
  | .cwrd v => Sys2Proof.Machine.execCwrd v s
  | .portInit w => Sys2Proof.Machine.execPortInit w s
  | .portDeinit => Sys2Proof.Machine.execPortDeinit s
  | .setRs => Sys2Proof.Machine.execSetRs s
  | .clrRs => Sys2Proof.Machine.execClrRs s
  | .setRw => Sys2Proof.Machine.execSetRw s
  | .clrRw => Sys2Proof.Machine.execClrRw s
  | .setCe => Sys2Proof.Machine.execSetCe s
  | .clrCe => Sys2Proof.Machine.execClrCe s
  | .dirIn4 => Sys2Proof.Machine.execDirIn4 s
  | .dirIn8 => Sys2Proof.Machine.execDirIn8 s
  | .dirOut4 => Sys2Proof.Machine.execDirOut4 s
  | .dirOut8 => Sys2Proof.Machine.execDirOut8 s
  | .out4 n => Sys2Proof.Machine.execOut4 n s
  | .out8 v => Sys2Proof.Machine.execOut8 v s
  | .in4 => Sys2Proof.Machine.execIn4 s
  | .in8 => Sys2Proof.Machine.execIn8 s
  | .delay us => Sys2Proof.Machine.execDelay us s
  | .funcset8 => Sys2Proof.Machine.execFuncset8 s
  | .dispctrl => Sys2Proof.Machine.execDispctrl s
  | .clear => Sys2Proof.Machine.execClear s
  | .entry => Sys2Proof.Machine.execEntry s
  | .prelim => Sys2Proof.Machine.execPrelim s
  | .funcset4 => Sys2Proof.Machine.execFuncset4 s
  | .setDdram addr => Sys2Proof.Machine.execSetDdram addr s

end Sys2Proof.Machine
end

