-- ==== Sys2Proof/Machine/Sequencer.lean ====
section
/-! DEFINITION. The sequencer, one port event a step (00_scope.md R7): accepting a command (41_session.md R130), the next
event of a running one (10_state.md R30), and what follows it, with the initialization FSM (45_init_fsm.md R215). -/

namespace Sys2Proof.Machine

/-- The part of a command that SEQ's i indexes: a fixed list, the list of a read cycle, which ends by assembling SAMPLE (43_read.md
R170, R171), or a poll, whose position K refines (R30). For INIT_CTRL the part is IS's step; for every other command it is the
whole event list (log 9). -/
inductive Part where
  | fixed (events : List PortOp)
  | read (events : List PortOp)
  | poll
  deriving DecidableEq, Repr

/-- The step of the initialization FSM at its IS state: the column "action in the state" of 45_init_fsm.md R215. -/
def initPart (s : State) : Part :=
  match s.is with
  | .idle => .fixed []
  | .pre => .fixed (w4n false codePrelim)
  | .fs1 | .fs2 => .fixed (writeEvents s.mode false (funcsetCode s))
  | .d1 => .fixed [.delay s.cfg.delayFs1Us]
  | .d2 => .fixed [.delay s.cfg.delayFs2Us]
  | .dc => .fixed (writeEvents s.mode false codeDispctrl)
  | .clr => .fixed (writeEvents s.mode false codeClear)
  | .em => .fixed (writeEvents s.mode false codeEntry)
  | .dcP | .clrP | .emP => .poll

/-- The read list of a mode (43_read.md R170, R171). -/
def readEvents (m : Mode) (rs : Bool) : List PortOp :=
  match m with
  | .m8 => r8 rs
  | _ => r4 rs

/-- The part a running command is in. -/
def partOf (op : Op) (arg : Byte) (s : State) : Part :=
  match op with
  | .init => .fixed [.portInit arg]
  | .deinit => .fixed [.portDeinit]
  | .writeInstr => .fixed (writeEvents s.mode false arg)
  | .writeData => .fixed (writeEvents s.mode true arg)
  | .readInstr => .read (readEvents s.mode false)
  | .readData => .read (readEvents s.mode true)
  | .waitBusy => .poll
  | .initCtrl => initPart s
  | .reserved _ => .fixed []

/-- Where position i of a 4-bit poll stands in its sample: 0 to 5, after the two events that open the poll (44_busy_poll.md
R191). -/
def nibblePhase (i : Nat) : Nat := (i - 2) % 6

/-- The event at position i of an 8-bit poll: three to open it, then samples with CE held, then CLR_CE (44_busy_poll.md
R190). -/
def pollEvent8 (i : Nat) (s : State) : PortOp :=
  match i with
  | 0 => .clrRs
  | 1 => .setRw
  | 2 => .setCe
  | _ + 3 => if decide (s.k ≠ 0) && pollOver s then .clrCe else .in8

/-- The six events of a 4-bit sample (44_busy_poll.md R191). -/
def nibbleEvent (phase : Nat) : PortOp :=
  match phase with
  | 0 => .setCe
  | 1 => .in4
  | 2 => .clrCe
  | 3 => .setCe
  | 4 => .in4
  | _ + 5 => .clrCe

/-- The event at position i of a 4-bit poll: two to open it, then whole samples (44_busy_poll.md R191). -/
def pollEvent4 (i : Nat) : PortOp :=
  match i with
  | 0 => .clrRs
  | 1 => .setRw
  | i + 2 => nibbleEvent (nibblePhase (i + 2))

/-- The event at position i of a poll (44_busy_poll.md R190, R191). -/
def pollEvent (i : Nat) (s : State) : PortOp :=
  match s.mode with
  | .m8 => pollEvent8 i s
  | _ => pollEvent4 i

/-- The next event of a running command, if its position is one the command has. -/
def nextEvent (p : Part) (i : Nat) (s : State) : Option PortOp :=
  match p with
  | .fixed events | .read events => events[i]?
  | .poll => some (pollEvent i s)

/-- Whether the event at position i is the IN4 of `HI <- In4()` (43_read.md R171, 44_busy_poll.md R191). -/
def bringsHighNibble (p : Part) (i : Nat) (op : PortOp) : Bool :=
  decide (op = .in4) &&
    match p with
    | .fixed _ => false
    | .read _ => decide (i = 3)
    | .poll => decide (nibblePhase i = 1)

/-- Whether `SAMPLE <- ...` stands right after the event at position i: after the last CLR_CE of a read cycle or of a nibble pair
(43_read.md R170, R171; 44_busy_poll.md R191), and after every IN8 of a poll (R190). -/
def assemblesSample (p : Part) (i : Nat) (op : PortOp) (m : Mode) : Bool :=
  match p with
  | .fixed _ => false
  | .read events => decide (i + 1 = events.length)
  | .poll =>
    match m with
    | .m8 => decide (op = .in8)
    | _ => decide (2 ≤ i ∧ nibblePhase i = 5)

/-- The byte assembled from what the last IN bound: v in M8, `(HI << 4) | lo` in M4 (43_read.md R170, R171, R173). -/
def assembledByte (bound : Byte) (s : State) : Byte :=
  match s.mode with
  | .m8 => bound
  | _ => joinNibbles s.hi (lowNibble bound)

/-- The writes of HI and SAMPLE that stand right after the event at position i, with `bound` what the last IN bound (43_read.md
R170, R171; 44_busy_poll.md R190, R191). Log 8. -/
def capture (p : Part) (i : Nat) (op : PortOp) (bound : Byte) (s : State) : State :=
  if bringsHighNibble p i op then { s with hi := lowNibble bound }
  else if assemblesSample p i op s.mode then { s with sample := assembledByte bound s }
  else s

/-- How many events open a poll: CLR_RS and SET_RW, and SET_CE in M8 (44_busy_poll.md R190, R191). -/
def pollOpening (m : Mode) : Nat :=
  match m with
  | .m8 => 3
  | _ => 2

/-- K within a poll: 0 when the poll is open, one more with each sample (44_busy_poll.md R190, R191; 10_state.md R28). -/
def countSample (p : Part) (i : Nat) (op : PortOp) (s : State) : State :=
  match p with
  | .fixed _ | .read _ => s
  | .poll =>
    if i + 1 = pollOpening s.mode then { s with k := 0 }
    else if assemblesSample p i op s.mode then { s with k := s.k + 1 }
    else s

/-- Everything the pseudocode does between the event at position i and the next one: HI, SAMPLE and K (00_scope.md R14). Log 8. -/
def afterEvent (p : Part) (i : Nat) (op : PortOp) (bound : Byte) (s : State) : State := countSample p i op (capture p i op bound s)

/-- Whether the event at position i was its part's last. -/
def partOver (p : Part) (i : Nat) (op : PortOp) (s : State) : Bool :=
  match p with
  | .fixed events | .read events => decide (i + 1 = events.length)
  | .poll =>
    match s.mode with
    | .m8 => decide (op = .clrCe)
    | _ => decide (2 ≤ i ∧ nibblePhase i = 5) && pollOver s

/-- Enter a step of the initialization FSM with j events of INIT_CTRL emitted so far (45_init_fsm.md R215). -/
def enterInit (x : InitState) (arg : Byte) (j : Nat) (s : State) : State :=
  { s with is := x, seq := .run .initCtrl arg j 0 0x00 }

/-- After a poll of the tail: on, or out on the first TIMEOUT (45_init_fsm.md R213, R217). -/
def afterTailPoll (x : InitState) (arg : Byte) (j : Nat) (s : State) : State :=
  if pollStatus s = .timeout then finishInitCtrl s else enterInit x arg j s

/-- The transitions of the initialization FSM: the column "to" of 45_init_fsm.md R215. -/
def initTransition (arg : Byte) (j : Nat) (s : State) : State :=
  match s.is with
  | .idle => finishInitCtrl s
  | .pre => enterInit .fs1 arg j s
  | .fs1 => enterInit .d1 arg j s
  | .d1 => enterInit .fs2 arg j s
  | .fs2 => enterInit .d2 arg j s
  | .d2 => enterInit .dc arg j s
  | .dc => enterInit .dcP arg j s
  | .dcP => afterTailPoll .clr arg j s
  | .clr => enterInit .clrP arg j s
  | .clrP => afterTailPoll .em arg j s
  | .em => enterInit .emP arg j s
  | .emP => finishInitCtrl s

/-- What follows a part's last event, with j events of the command emitted: MODE is bound or unbound (41_session.md R132, R133),
the response is given, or the FSM moves on. -/
def completePart (op : Op) (arg : Byte) (j : Nat) (s : State) : State :=
  match op with
  | .init => respond .ok 0x00 { s with mode := (busWidth arg).getD .undef }
  | .deinit => respond .ok 0x00 (forgetScratch { s with mode := .undef })
  | .writeInstr | .writeData => respond .ok 0x00 s
  | .readInstr | .readData => respond .ok s.sample s
  | .waitBusy => respond (pollStatus s) 0x00 s
  | .initCtrl => initTransition arg j s
  | .reserved _ => raiseContractFault s

/-- The answer of an accepted command that is turned away, which emits no event: the checks of 60_exceptions.md R265 in their
order. `none` when the command executes. -/
def rejection (op : Op) (arg : Byte) (s : State) : Option State :=
  match op with
  | .reserved _ => some (raiseContractFault s)
  | .init =>
    match busWidth arg with
    | none => some (raiseContractFault s)
    | some _ => if s.mode ≠ .undef then some (raiseContractFault s) else none
  | .deinit => none
  | .writeInstr | .writeData | .readInstr | .readData | .waitBusy | .initCtrl =>
    if s.mode = .undef then some (notInitStub s) else none

/-- What the last IN bound, once an event has been emitted: an IN binds its answer (00_scope.md R14), any other event binds
nothing. -/
def boundAfter (op : PortOp) (bound : Byte) (s : State) : Byte := (answerOf op s).getD bound

/-- One event of a running command (00_scope.md R7): j and i move on (10_state.md R30), and what the pseudocode does before the next
event is done with it (log 8, 10). -/
def nextStep (op : Op) (arg : Byte) (j i : Nat) (bound : Byte) (s : State) : Result :=
  match nextEvent (partOf op arg s) i s with
  | none => .fault .seqPositionNotHeld
  | some e =>
    andThen (emit e s) fun t =>
    let bound := boundAfter e bound s
    let t := afterEvent (partOf op arg s) i e bound t
    if partOver (partOf op arg s) i e t then .next (completePart op arg (j + 1) t)
    else .next { t with seq := .run op arg (j + 1) (i + 1) bound }

/-- One step of an accepted command: turned away with its response and no event, or exactly one event. -/
def tick (op : Op) (arg : Byte) (j i : Nat) (bound : Byte) (s : State) : Result :=
  match rejection op arg s with
  | some t => .next t
  | none => nextStep op arg j i bound s

/-- IS once INIT_CTRL is accepted: the first two rows of 45_init_fsm.md R215. Before INIT it stays IS_IDLE, for the stub sends
nothing. -/
def firstInitState (m : Mode) : InitState :=
  match m with
  | .undef => .idle
  | .m4 => .pre
  | .m8 => .fs1

/-- Accepting a command: SEQ <- RUN(op, arg, 0) (10_state.md R30, 20_memory.md R62), with IS at its first step for INIT_CTRL. -/
def beginCommand (op : Op) (arg : Byte) (s : State) : State :=
  match op with
  | .initCtrl => enterInit (firstInitState s.mode) arg 0 s
  | _ => { s with seq := .run op arg 0 0 0x00 }

/-- Accept an instruction to be run one event a step: every command word, whatever its answer will be. `none` for an
instruction that is no command; it runs in the one step. The second word of a pair waits at the head of the queue
(30_encoding.md R88). -/
def accept (i : Instr) (s : State) : Option State :=
  match i with
  | .init arg => some (beginCommand .init arg s)
  | .deinit arg => some (beginCommand .deinit arg s)
  | .writeInstr v => some (beginCommand .writeInstr v s)
  | .writeData v => some (beginCommand .writeData v s)
  | .readInstr arg => some (beginCommand .readInstr arg s)
  | .readData arg => some (beginCommand .readData arg s)
  | .waitBusy arg => some (beginCommand .waitBusy arg s)
  | .initCtrl arg => some (beginCommand .initCtrl arg s)
  | .cwri v => some (beginCommand .writeInstr v { s with queue := .command waitBusyWord :: s.queue })
  | .cwrd v => some (beginCommand .writeData v { s with queue := .command waitBusyWord :: s.queue })
  | .reserved0 arg => some (beginCommand (.reserved 0x0) arg s)
  | .reserved9 arg => some (beginCommand (.reserved 0x9) arg s)
  | .reservedA arg => some (beginCommand (.reserved 0xA) arg s)
  | .reservedB arg => some (beginCommand (.reserved 0xB) arg s)
  | .reservedC arg => some (beginCommand (.reserved 0xC) arg s)
  | .reservedD arg => some (beginCommand (.reserved 0xD) arg s)
  | .reservedE arg => some (beginCommand (.reserved 0xE) arg s)
  | .reservedF arg => some (beginCommand (.reserved 0xF) arg s)
  | .portInit _ | .portDeinit | .setRs | .clrRs | .setRw | .clrRw | .setCe | .clrCe | .dirIn4 | .dirIn8 | .dirOut4
  | .dirOut8 | .out4 _ | .out8 _ | .in4 | .in8 | .delay _ => none
  | .funcset8 | .dispctrl | .clear | .entry | .prelim | .funcset4 | .setDdram _ => none

end Sys2Proof.Machine
end

