-- ==== Sys2Proof/Machine/Fetch.lean ====
section
/-! DEFINITION. What one step does, and where the next instruction is placed; Machine/Step.lean only names them. -/

namespace Sys2Proof.Machine

/-- Take an instruction that has just been offered: run it whole, or accept it, to be run one event a step (log 1). -/
def runOffered (i : Instr) (s : State) : Result :=
  match s.pace with
  | .command => exec i s
  | .event =>
    match accept i s with
    | some t => .next t
    | none => exec i s

/-- In IDLE: take the word at the head of the queue, or wait for one (20_memory.md R51, R62). -/
def fetch (s : State) : Result :=
  match s.queue with
  | [] => .next s
  | p :: rest =>
    match decode p with
    | .ok i => runOffered i { s with queue := rest }
    | .error why => .refused (.notAnInstruction why)

/-- What the block does next: a waiting response goes to the host when the host is ready, and until then nothing else happens
(20_memory.md R62); a running command emits its next event (00_scope.md R7); otherwise the block is IDLE. -/
def advance (s : State) : Result :=
  if s.rspValid then (if s.rspReady then .next (takeResponse s) else .next s)
  else
    match s.seq with
    | .run op arg j i bound => tick op arg j i bound s
    | .idle => fetch s

/-- One step. A configuration with N = 0 is refused (00_scope.md R8); reset comes before everything else
(70_reset_and_hazards.md R281). -/
def oneStep (s : State) : Result :=
  if s.cfg.valid = false then .refused .retryCeilingZero
  else if s.resetReq then .next (powerOnReset s)
  else advance s

/-- The state with the table's instruction offered next: at the head of the queue, to run whole in the next step, with the
block ready for it (SEQ = IDLE, no response waiting, no reset). Log 14, 25. -/
def offerTableWord (s : State) (nbits w : Nat) : State :=
  { s with
    queue := packetOfTableWord nbits w :: s.queue, pace := .command, seq := .idle, rspValid := false,
    resetReq := false }

end Sys2Proof.Machine
end

