-- ==== Sys2Proof/Machine/Assembly.lean ====
section
/-! DEFINITION. The assembly syntax of host programs (30_encoding.md R87, R88), from characters to command words. Log 22. -/

namespace Sys2Proof.Machine

/-- Why a line does not assemble. -/
inductive AsmError where
  | unknownMnemonic
  | badOperand
  | operandRange
  | extraText
  deriving DecidableEq, Repr

/-- A space or a tab. -/
def isBlank (c : Char) : Bool := c == ' ' || c == '\t'

/-- Whether the rest of a line is blank or a comment (R87). -/
def restEmpty (cs : List Char) : Bool :=
  match cs.dropWhile isBlank with
  | [] => true
  | c :: _ => c == ';'

/-- The value of a digit of the given base, if it is one. -/
def digitValue (base : Nat) (c : Char) : Option Nat :=
  let n := c.toNat
  let v :=
    if 48 ≤ n ∧ n ≤ 57 then some (n - 48)
    else if 97 ≤ n ∧ n ≤ 102 then some (n - 87)
    else if 65 ≤ n ∧ n ≤ 70 then some (n - 55)
    else none
  v.filter (· < base)

/-- Read digits onto a value so far, up to the first character that is none. -/
def readDigits (base acc : Nat) (cs : List Char) : Nat × List Char :=
  match cs with
  | [] => (acc, [])
  | c :: rest =>
    match digitValue base c with
    | some d => readDigits base (acc * base + d) rest
    | none => (acc, c :: rest)

/-- A number: at least one digit. -/
def readNumber (base : Nat) (cs : List Char) : Except AsmError (Nat × List Char) :=
  match cs with
  | [] => .error .badOperand
  | c :: _ => if (digitValue base c).isSome then .ok (readDigits base 0 cs) else .error .badOperand

/-- An operand: a character literal, a `0x` hexadecimal number or a decimal number (R87). R87 gives a literal its ASCII code and says
nothing of a character outside ASCII. DESIGN CHOICE: a literal with a code of 128 or more has its Unicode code, so 128 to 255 are
accepted and a code above 255 is out of range. Log 22. -/
def readOperand (cs : List Char) : Except AsmError (Nat × List Char) :=
  match cs.dropWhile isBlank with
  | '\'' :: c :: '\'' :: rest => .ok (c.toNat, rest)
  | '0' :: 'x' :: rest => readNumber 16 rest
  | rest => readNumber 10 rest

/-- A mnemonic with no operand. -/
def noOperand (ws : List CmdWord) (rest : List Char) : Except AsmError (List CmdWord) :=
  if restEmpty rest then .ok ws else .error .extraText

/-- A mnemonic with one operand of at most `limit`. -/
def withOperand (limit : Nat) (f : Nat → Except AsmError (List CmdWord)) (rest : List Char) :
    Except AsmError (List CmdWord) :=
  match readOperand rest with
  | .error e => .error e
  | .ok (n, after) =>
    if restEmpty after = false then .error .extraText
    else if limit < n then .error .operandRange
    else f n

/-- `init` takes 4 or 8; other widths are written `.word 0x1nn` (R87). -/
def initWord (n : Nat) : Except AsmError (List CmdWord) :=
  if n = 4 ∨ n = 8 then .ok [cmdWord 0x1 (BitVec.ofNat 8 n)] else .error .operandRange

/-- One line: its mnemonic and operand (R87), a pseudo-instruction expanded (R88). R87 gives every line one command and says nothing
of a blank line or of one that holds only a comment. DESIGN CHOICE: it assembles to no word. Log 22. -/
def assembleLine (line : List Char) : Except AsmError (List CmdWord) :=
  let text := line.dropWhile isBlank
  if restEmpty text then .ok []
  else
    let isWord := fun c => !isBlank c && c != ';'
    let rest := text.dropWhile isWord
    match text.takeWhile isWord with
    | ['i', 'n', 'i', 't'] => withOperand 255 initWord rest
    | ['d', 'e', 'i', 'n', 'i', 't'] => noOperand [cmdWord 0x2 0] rest
    | ['w', 'r', 'i'] => withOperand 255 (fun n => .ok [cmdWord 0x3 (BitVec.ofNat 8 n)]) rest
    | ['w', 'r', 'd'] => withOperand 255 (fun n => .ok [cmdWord 0x4 (BitVec.ofNat 8 n)]) rest
    | ['r', 'd', 'i'] => noOperand [cmdWord 0x5 0] rest
    | ['r', 'd', 'd'] => noOperand [cmdWord 0x6 0] rest
    | ['w', 'a', 'i', 't', 'b', 'u', 's', 'y'] => noOperand [waitBusyWord] rest
    | ['i', 'n', 'i', 't', 'c', 't', 'r', 'l'] => noOperand [cmdWord 0x8 0] rest
    | ['.', 'w', 'o', 'r', 'd'] => withOperand 4095 (fun n => .ok [BitVec.ofNat 12 n]) rest
    | ['c', 'w', 'r', 'i'] => withOperand 255 (fun n => .ok [cmdWord 0x3 (BitVec.ofNat 8 n), waitBusyWord]) rest
    | ['c', 'w', 'r', 'd'] => withOperand 255 (fun n => .ok [cmdWord 0x4 (BitVec.ofNat 8 n), waitBusyWord]) rest
    | _ => .error .unknownMnemonic

/-- A program, one line after another. -/
def assemble (lines : List (List Char)) : Except AsmError (List CmdWord) :=
  match lines with
  | [] => .ok []
  | line :: rest =>
    match assembleLine line with
    | .error e => .error e
    | .ok ws =>
      match assemble rest with
      | .error e => .error e
      | .ok more => .ok (ws ++ more)

/-- The host offers a program's words (R87). -/
def offerWords (ws : List CmdWord) (s : State) : State := { s with queue := s.queue ++ ws.map .command }

end Sys2Proof.Machine
end

