-- ==== Sys2Proof/Machine/HostDriver.lean ====
section
/-! DEFINITION. The reference host, the Display Driver (46_host_driver.md): software outside the block (00_scope.md R5), given
as the command words each call offers, with the host's own state and runs of host programs. Log 23. -/

namespace Sys2Proof.Machine

/-- The screen in characters (R241). -/
structure Geometry where
  width : Int
  height : Int
  deriving DecidableEq, Repr

/-- The host's own state: no geometry until SetupScreenDimensions (R241), whether an INIT has returned OK, and whether INIT_CTRL
has in that session (R247). -/
structure DriverState where
  geometry : Option Geometry
  bound : Bool
  ready : Bool
  deriving DecidableEq, Repr

/-- The host at the start of a program: R241 gives no default geometry, and nothing has been initialised (R247). -/
def DriverState.start : DriverState := { geometry := none, bound := false, ready := false }

/-- The calls of the Display Driver (R242 to R246). -/
inductive DriverCall where
  | clear
  | gotoXY (x y : Int)
  | putc (c : Int)
  | puts (str : Option (List Byte))
  | setupScreenDimensions (w h : Int)
  deriving DecidableEq, Repr

/-- A host program the model refuses (R241, R247). -/
inductive DriverRefusal where
  | geometryNotSet
  | notInitialised
  deriving DecidableEq, Repr

/-- Clamp to the origin, not to the edge (R243). -/
def clampToOrigin (v limit : Int) : Int := if v < 0 ∨ limit ≤ v then 0 else v

/-- The DDRAM address of GotoXY, masked to 7 bits (R243). -/
def ddramAddress (g : Geometry) (x y : Int) : BitVec 7 :=
  let x := clampToOrigin x g.width
  let y := clampToOrigin y g.height
  BitVec.ofInt 7 (x + 0x40 * (y % 2) + g.width * (y / 2))

/-- The byte Putc writes (R244). -/
def putcByte (c : Int) : Byte := if c < 0 ∨ 255 < c then 0x20 else BitVec.ofInt 8 c

/-- The packet `cwri v` (30_encoding.md R88). -/
def offerCwri (v : Byte) : Packet := encode (.cwri v)

/-- The packet `cwrd v` (30_encoding.md R88). -/
def offerCwrd (v : Byte) : Packet := encode (.cwrd v)

/-- The characters Puts writes: `min(len(s), WIDTH)` of them (R245). -/
def putsChars (g : Geometry) (str : Option (List Byte)) : List Byte :=
  match str with
  | none => []
  | some chars => chars.take g.width.toNat

/-- R241: WIDTH ≥ 1 and HEIGHT ≥ 1. -/
def Geometry.usable (g : Geometry) : Bool := decide (1 ≤ g.width) && decide (1 ≤ g.height)

/-- The geometry, where one is set and usable (R241). -/
def DriverState.screen (h : DriverState) : Except DriverRefusal Geometry :=
  match h.geometry with
  | none => .error .geometryNotSet
  | some g => if g.usable then .ok g else .error .geometryNotSet

/-- R247: every call but SetupScreenDimensions needs the initialization. -/
def DriverState.whenReady (h : DriverState) (ps : List Packet) : Except DriverRefusal (List Packet) :=
  if h.ready then .ok ps else .error .notInitialised

/-- What a call offers to the block, in order (R240, R242 to R246). -/
def expandCall (h : DriverState) (c : DriverCall) : Except DriverRefusal (List Packet) :=
  match c with
  | .clear => h.whenReady [offerCwri codeClear]
  | .gotoXY x y =>
    match h.screen with
    | .ok g => h.whenReady [offerCwri (codeSetDdram (ddramAddress g x y))]
    | .error e => .error e
  | .putc c => h.whenReady [offerCwrd (putcByte c)]
  | .puts str =>
    match h.screen with
    | .ok g =>
      match putsChars g str with
      | [] => h.whenReady [.command waitBusyWord]
      | chars => h.whenReady (chars.map offerCwrd)
    | .error e => .error e
  | .setupScreenDimensions _ _ => .ok []

/-- The host's state after a call: only SetupScreenDimensions writes the geometry (R241, R246). -/
def afterCall (h : DriverState) (c : DriverCall) : DriverState :=
  match c with
  | .setupScreenDimensions w h' => { h with geometry := some ⟨w, h'⟩ }
  | .clear | .gotoXY _ _ | .putc _ | .puts _ => h

/-- The status a call returns, from the responses it drew: that of its last WAIT_BUSY, which is its last response; OK where it
issues none (R240, R246). -/
def callStatus (responses : List Response) : Status :=
  match responses.getLast? with
  | some r => r.status
  | none => .ok

/-- The host offers a call's packets after those it has already lined up (R240). -/
def offerCall (ps : List Packet) (s : State) : State := { s with queue := s.queue ++ ps }

/-! ## What the host learns from responses (R247) -/

/-- After one response: INIT's OK begins a session, INIT_CTRL's OK in it makes the driver usable and its TIMEOUT does not
(70_reset_and_hazards.md R282), and DEINIT ends both. -/
def afterResponse (h : DriverState) (w : CmdWord) (r : Response) : DriverState :=
  match decodeCommand w, r.status with
  | .init _, .ok => { h with bound := true, ready := false }
  | .deinit _, _ => { h with bound := false, ready := false }
  | .initCtrl _, .ok => { h with ready := h.bound }
  | .initCtrl _, .timeout => { h with ready := false }
  | _, _ => h

/-- After the responses of several words, in order. -/
def afterResponses (h : DriverState) (ws : List CmdWord) (rs : List Response) : DriverState :=
  (ws.zip rs).foldl (fun h wr => afterResponse h wr.1 wr.2) h

/-- A power-on reset of the block ends its session; the geometry is the host's own and stays (R241). -/
def afterReset (h : DriverState) : DriverState := { h with bound := false, ready := false }

/-- The command words of a packet a host offers. -/
def wordsOf (p : Packet) : List CmdWord :=
  match p with
  | .command w => [w]
  | .commandPair first second => [first, second]
  | .portEvent _ _ | .delayRequest _ | .lcdByte _ | .lcdNibble _ | .lcdParameter | .malformed _ _ => []

/-! ## Running a host program -/

/-- One step of a host program: a command word, a call of the driver, or a power-on reset of the block. -/
inductive HostAction where
  | command (w : CmdWord)
  | call (c : DriverCall)
  | powerOn
  deriving DecidableEq, Repr

/-- Why a host program stops. -/
inductive HostStop where
  /-- the program breaks R241 or R247 -/
  | refused (why : DriverRefusal)
  /-- the block stopped -/
  | blockFault (why : Fault)
  | blockRefusal (why : Refusal)
  /-- the steps allowed were not enough -/
  | outOfSteps
  deriving DecidableEq, Repr

/-- Nothing offered, running or waiting to be taken. -/
def quiet (s : State) : Bool := cmdReady s && s.queue.isEmpty

/-- Step the block until it is quiet, `steps` times at most. -/
def settle (steps : Nat) (s : State) : Except HostStop State :=
  if quiet s then .ok s
  else
    match steps with
    | 0 => .error .outOfSteps
    | n + 1 =>
      match step s with
      | .next t => settle n t
      | .fault x => .error (.blockFault x)
      | .refused x => .error (.blockRefusal x)

/-- Offer packets, let the block answer them all, and learn from the responses, which on a quiet block are the packets' own (R240).
DESIGN CHOICE: on a block that is not quiet, with words queued, a command running or a response waiting, that work is finished first,
within the action; its responses go to the host and count neither for the action's status nor for what the host learns. Log 23. -/
def issue (steps : Nat) (h : DriverState) (ps : List Packet) (s : State) : Except HostStop (DriverState × State × Status) :=
  match settle steps s with
  | .error e => .error e
  | .ok s =>
    match settle steps (offerCall ps s) with
    | .error e => .error e
    | .ok t =>
      let responses := t.delivered.drop s.delivered.length
      .ok (afterResponses h (ps.flatMap wordsOf) responses, t, callStatus responses)

/-- Run one action, giving its status. -/
def runAction (steps : Nat) (h : DriverState) (a : HostAction) (s : State) :
    Except HostStop (DriverState × State × Status) :=
  match a with
  | .command w => issue steps h [.command w] s
  | .call c =>
    match expandCall h c with
    | .error e => .error (.refused e)
    | .ok ps => issue steps (afterCall h c) ps s
  | .powerOn =>
    match step { s with resetReq := true } with
    | .next t => .ok (afterReset h, t, .ok)
    | .fault x => .error (.blockFault x)
    | .refused x => .error (.blockRefusal x)

/-- Run a program, one action after the other (R240), giving the status of each. -/
def runProgram (steps : Nat) (h : DriverState) (program : List HostAction) (s : State) :
    Except HostStop (DriverState × State × List Status) :=
  match program with
  | [] => .ok (h, s, [])
  | a :: rest =>
    match runAction steps h a s with
    | .error e => .error e
    | .ok (h, t, st) =>
      match runProgram steps h rest t with
      | .error e => .error e
      | .ok (h, u, sts) => .ok (h, u, st :: sts)

/-- A host program from its start (R241, R247), on a block in the given state. -/
def runHostProgram (steps : Nat) (program : List HostAction) (s : State) :
    Except HostStop (DriverState × State × List Status) :=
  runProgram steps DriverState.start program s

end Sys2Proof.Machine
end

