-- ==== Sys2Proof/Safety.lean ====
section
/-! DEFINITION. What counts as a safe run: the idle invariant (10_state.md R36), the states of a running command, the host's
side of the contract (20_memory.md R65), and the words in which the statements count samples and list events. -/

namespace Sys2Proof.Machine

/-- R32: every claim about a program takes FAULT = 0 at its end as a premise. -/
def State.clean (s : State) : Bool := !s.fault

/-- An event with no answer, as the trace holds it. -/
def ev (op : PortOp) : Event := ⟨op, none⟩

/-- A list of events with no answers. -/
def evs (ops : List PortOp) : List Event := ops.map ev

/-- `IN8→v` (00_scope.md R15). -/
def in8Event (v : Byte) : Event := ⟨.in8, some v⟩

/-- `IN4→n` (00_scope.md R15). -/
def in4Event (n : Nibble) : Event := ⟨.in4, some (zext8 n)⟩

/-- The latch holds what the mode gives it: a byte in M8, a nibble in M4, or U (R24). -/
def latchFits (m : Mode) (d : Latch) : Prop :=
  match m, d with
  | _, .u => True
  | .m4, .nibble _ => True
  | .m8, .byte _ => True
  | _, _ => False

/-- The lines at idle (R36). -/
def idleLines (m : Mode) (l : Lines) : Prop :=
  match m with
  | .undef => l = Lines.floating
  | .m4 =>
    l.ce = .low ∧ l.rw = .high ∧ l.dir4 = .input ∧ l.dir8 = .u ∧ (l.rs = .low ∨ l.rs = .high) ∧ latchFits .m4 l.dout
  | .m8 =>
    l.ce = .low ∧ l.rw = .high ∧ l.dir8 = .input ∧ l.dir4 = .u ∧ (l.rs = .low ∨ l.rs = .high) ∧ latchFits .m8 l.dout

/-- A session is open and the bound width's data lines are inputs, as at idle (R36): what a read or a poll needs. -/
def busReadable (s : State) : Prop :=
  (s.mode = .m8 ∧ s.lines.dir8 = .input) ∨ (s.mode = .m4 ∧ s.lines.dir4 = .input)

/-- The lines after a list of events. -/
def linesAfter (ops : List PortOp) (l : Lines) : Lines := ops.foldl (fun l op => performLines op l) l

/-- The events of a part before position i, as far as they touch the lines: an IN does not, so the samples of an 8-bit poll and
the whole samples of a 4-bit poll are left out. -/
def emittedSoFar (p : Part) (m : Mode) (i : Nat) : List PortOp :=
  match p with
  | .fixed events | .read events => events.take i
  | .poll =>
    match m with
    | .m8 => [PortOp.clrRs, .setRw, .setCe].take i
    | _ =>
      [PortOp.clrRs, .setRw].take i ++
        (if 2 ≤ i then [PortOp.setCe, .in4, .clrCe, .setCe, .in4, .clrCe].take (nibblePhase i) else [])

/-- i is a position the part has, and K counts the samples taken (10_state.md R28, R30). -/
def positionHeld (p : Part) (i : Nat) (s : State) : Prop :=
  match p with
  | .fixed events | .read events => i < events.length
  | .poll =>
    match s.mode with
    | .m8 => 3 ≤ i → i = 3 + s.k
    | _ => 2 ≤ i → (i - 2) / 6 = s.k ∧ s.k < s.cfg.busyRetryMax

/-- An accepted command that will be turned away (60_exceptions.md R265, cases 1 to 4). -/
def turnedAway (op : Op) (arg : Byte) (s : State) : Bool := (rejection op arg s).isSome

/-- An accepted command that is about to be turned away: nothing has been emitted and the block is as at idle. -/
def waitsToBeTurnedAway (j i : Nat) (s : State) : Prop := j = 0 ∧ i = 0 ∧ s.is = .idle ∧ idleLines s.mode s.lines

/-- The state of a command that executes: IS runs exactly with INIT_CTRL; i is a position of its part, and j the same but for
the steps of INIT_CTRL before this one; and the lines are what its events so far make of some idle lines. -/
def executesWell (op : Op) (arg : Byte) (j i : Nat) (s : State) : Prop :=
  (op = .initCtrl ↔ s.is ≠ .idle) ∧
  (s.is = .pre → s.mode = .m4) ∧
  positionHeld (partOf op arg s) i s ∧
  i ≤ j ∧ (op ≠ .initCtrl → i = j) ∧
  ∃ l, idleLines s.mode l ∧ s.lines = linesAfter (emittedSoFar (partOf op arg s) s.mode i) l

/-- The state of a running command: no response waits, and the command is about to be turned away, or executes. -/
def runningWell (op : Op) (arg : Byte) (j i : Nat) (s : State) : Prop :=
  s.rspValid = false ∧
  (turnedAway op arg s = true ∧ waitsToBeTurnedAway j i s ∨ turnedAway op arg s = false ∧ executesWell op arg j i s)

/-- The command is in a write cycle: a write command, or a write step of the initialization FSM (45_init_fsm.md R215). -/
def isWriting (op : Op) (x : InitState) : Bool :=
  match op with
  | .writeInstr | .writeData => true
  | .initCtrl =>
    match x with
    | .pre | .fs1 | .fs2 | .dc | .clr | .em => true
    | .idle | .d1 | .d2 | .dcP | .clrP | .emP => false
  | .init | .deinit | .readInstr | .readData | .waitBusy | .reserved _ => false

/-- The byte that write cycle sends: ARG, or the code of the FSM's step (45_init_fsm.md R211 to R214). -/
def writtenByte (op : Op) (arg : Byte) (s : State) : Byte :=
  match op with
  | .initCtrl =>
    match s.is with
    | .fs1 | .fs2 => if s.mode = .m8 then 0x3C else s.cfg.funcset4Code
    | .dc => 0x0C
    | .clr => 0x01
    | _ => 0x06
  | _ => arg

/-- The host drives the command channel only (20_memory.md R65), with words or whole pseudo-instructions. -/
def fromHost (p : Packet) : Bool :=
  match p with
  | .command _ => true
  | .commandPair first second =>
    match decodePair first second with
    | .ok _ => true
    | .error _ => false
  | .portEvent _ _ | .delayRequest _ | .lcdByte _ | .lcdNibble _ | .lcdParameter | .malformed _ _ => false

/-- The invariant of the block: a configuration R8 allows, K ≤ N (R28), a host that keeps to its channel (R65), and either the
idle invariant (R36) or a running command. -/
def BlockInv (s : State) : Prop :=
  s.cfg.valid = true ∧
  s.k ≤ s.cfg.busyRetryMax ∧
  (∀ p ∈ s.queue, fromHost p = true) ∧
  match s.seq with
  | .idle => s.is = .idle ∧ idleLines s.mode s.lines
  | .run op arg j i _ => runningWell op arg j i s

/-- How many samples a poll takes of the answers f, n at most: up to the first ready one, or all n (44_busy_poll.md R193). -/
def sampleCount (n : Nat) (f : Nat → Byte) : Nat :=
  match n with
  | 0 => 0
  | n + 1 => if busy (f 0) then sampleCount n (fun i => f (i + 1)) + 1 else 1

/-- A poll of the answers f ends OK: one of its first n samples is ready (44_busy_poll.md R193). -/
def pollReady (n : Nat) (f : Nat → Byte) : Bool :=
  match n with
  | 0 => false
  | n + 1 => !busy (f 0) || pollReady n (fun i => f (i + 1))

/-- The trace of an 8-bit poll of k samples (44_busy_poll.md R190). -/
def pollTrace8 (k : Nat) (f : Nat → Byte) : List Event :=
  evs [.clrRs, .setRw, .setCe] ++ (List.range k).map (fun i => in8Event (f i)) ++ [ev .clrCe]

/-- The trace of one 4-bit sample (44_busy_poll.md R191). -/
def sampleTrace4 (high low : Byte) : List Event :=
  [ev .setCe, in4Event (lowNibble high), ev .clrCe, ev .setCe, in4Event (lowNibble low), ev .clrCe]

/-- The byte that the i-th pair of IN4 answers of f makes (44_busy_poll.md R191). -/
def pairByte (f : Nat → Byte) (i : Nat) : Byte := joinNibbles (lowNibble (f (2 * i))) (lowNibble (f (2 * i + 1)))

/-- The trace of a 4-bit poll of k samples (44_busy_poll.md R191). -/
def pollTrace4 (k : Nat) (f : Nat → Byte) : List Event :=
  evs [.clrRs, .setRw] ++ (List.range k).flatMap (fun i => sampleTrace4 (f (2 * i)) (f (2 * i + 1)))

/-- The events of a poll in mode m over the answers f of its IN events, N samples at most. -/
def pollTraceOf (m : Mode) (n : Nat) (f : Nat → Byte) : List Event :=
  match m with
  | .m8 => pollTrace8 (sampleCount n f) f
  | _ => pollTrace4 (sampleCount n (pairByte f)) f

/-- Whether that poll ends OK. -/
def pollOk (m : Mode) (n : Nat) (f : Nat → Byte) : Bool :=
  match m with
  | .m8 => pollReady n f
  | _ => pollReady n (pairByte f)

/-- How many IN events that poll emits. -/
def pollDraws (m : Mode) (n : Nat) (f : Nat → Byte) : Nat :=
  match m with
  | .m8 => sampleCount n f
  | _ => 2 * sampleCount n (pairByte f)

/-- The events of an event alphabet's 8-bit width (20_memory.md R55). -/
def isWidth8 (op : PortOp) : Bool :=
  match op with
  | .out8 _ | .in8 | .dirIn8 | .dirOut8 => true
  | .portInit _ | .portDeinit | .setRs | .clrRs | .setRw | .clrRw | .setCe | .clrCe | .dirIn4 | .dirOut4 | .out4 _ | .in4
  | .delay _ => false

/-- The events of an event alphabet's 4-bit width (20_memory.md R55). -/
def isWidth4 (op : PortOp) : Bool :=
  match op with
  | .out4 _ | .in4 | .dirIn4 | .dirOut4 => true
  | .portInit _ | .portDeinit | .setRs | .clrRs | .setRw | .clrRw | .setCe | .clrCe | .dirIn8 | .dirOut8 | .out8 _ | .in8
  | .delay _ => false

end Sys2Proof.Machine
end

