-- ==== Sys2Proof/Certificates/Slice0/Obligations.lean ====
section
/-! DEFINITION. The statements for the provers, from the numbered rules of spec/. Each next state is written out, so a field it
does not name is unchanged. -/

open Sys2Proof Sys2Proof.Machine

/-! ## Encoding -/

/-- Words written out from 30_encoding.md R72, R73, R78, R79, R85, R87, R88 decode to what they stand for. -/
def Obligations.WrittenWordsDecode : Prop :=
  decode (.command 0x104) = .ok (.init 0x04) ∧ decode (.command 0x2AB) = .ok (.deinit 0xAB) ∧
  decode (.command 0x33C) = .ok (.writeInstr 0x3C) ∧ decode (.command 0x441) = .ok (.writeData 0x41) ∧
  decode (.command 0x500) = .ok (.readInstr 0) ∧ decode (.command 0x600) = .ok (.readData 0) ∧
  decode (.command 0x7FF) = .ok (.waitBusy 0xFF) ∧ decode (.command 0x800) = .ok (.initCtrl 0) ∧
  decode (.command 0x000) = .ok (.reserved0 0) ∧ decode (.command 0x9AB) = .ok (.reserved9 0xAB) ∧
  decode (.commandPair 0x3C5 0x700) = .ok (.cwri 0xC5) ∧ decode (.portEvent 0x0 0x08) = .ok (.portInit 8) ∧
  decode (.portEvent 0xC 0x04) = .ok (.out4 4) ∧ decode (.portEvent 0xF 0x00) = .ok .in8 ∧
  decode (.delayRequest 39) = .ok (.delay 39) ∧ decode (.lcdByte 0x3C) = .ok .funcset8 ∧
  decode (.lcdByte 0xC5) = .ok (.setDdram 0x45)

/-- Decode and encode agree, on every well-formed instruction and every operand. -/
def Obligations.DecodeOfEncodeIsIdentity : Prop :=
  ∀ i : Instr, i.wellFormed = true → decode (encode i) = .ok i

/-- R90, R70: every 12-bit word decodes to one command or reserved OP, and no bit of it is lost. That the ignored ARG is kept in the
instruction is the model's choice, log 16. -/
def Obligations.CommandWordsDecodeWithoutLoss : Prop :=
  ∀ w : CmdWord, ∃ i : Instr, decode (.command w) = .ok i ∧ i.wellFormed = true ∧ encode i = .command w

/-- R73: a command word with a reserved OP decodes to that OP's instruction, and each is a contract fault in every state: the
response, FAULT, and nothing else. -/
def Obligations.ReservedOpIsContractFault : Prop :=
  ∀ (w : CmdWord) (s : State), (opField w).toNat = 0 ∨ 9 ≤ (opField w).toNat →
    ∃ i, decode (.command w) = .ok i ∧
      i ∈ [Instr.reserved0 (argField w), .reserved9 (argField w), .reservedA (argField w), .reservedB (argField w),
        .reservedC (argField w), .reservedD (argField w), .reservedE (argField w), .reservedF (argField w)] ∧
      exec i s = .next { s with
        rspStatus := .contract, rspData := 0x00, rspValid := true, seq := .idle, fault := true }

/-- R74: the commands that ignore ARG, and the ARG = 0x00 the assembler writes for them. -/
def Obligations.IgnoredArgHasNoEffect : Prop :=
  ∀ (a b : Byte) (s : State),
    exec (.deinit a) s = exec (.deinit b) s ∧ exec (.readInstr a) s = exec (.readInstr b) s ∧
    exec (.readData a) s = exec (.readData b) s ∧ exec (.waitBusy a) s = exec (.waitBusy b) s ∧
    exec (.initCtrl a) s = exec (.initCtrl b) s ∧
    assembleLine "deinit".toList = .ok [0x200] ∧ assembleLine "rdi".toList = .ok [0x500] ∧
    assembleLine "rdd".toList = .ok [0x600] ∧ assembleLine "waitbusy".toList = .ok [0x700] ∧
    assembleLine "initctrl".toList = .ok [0x800]

/-! ## Session commands -/

/-- R132: INIT binds the width and initialises the port; a bad width and a second INIT are contract faults; no other command leaves
MODE = UNDEF. SAMPLE, HI and K after a successful INIT are left open (R35; log 7). -/
def Obligations.InitBindsWidth : Prop :=
  (∀ s : State, s.mode = .undef → ∃ sample hi k,
    exec (.init 4) s = .next { s with
      mode := .m4
      lines := { s.lines with ce := .low, rs := .low, rw := .high, dir4 := .input, dout := .u }
      sample := sample, hi := hi, k := k
      trace := s.trace ++ [ev (.portInit 4)]
      rspStatus := .ok, rspData := 0x00, rspValid := true, seq := .idle }) ∧
  (∀ s : State, s.mode = .undef → ∃ sample hi k,
    exec (.init 8) s = .next { s with
      mode := .m8
      lines := { s.lines with ce := .low, rs := .low, rw := .high, dir8 := .input, dout := .u }
      sample := sample, hi := hi, k := k
      trace := s.trace ++ [ev (.portInit 8)]
      rspStatus := .ok, rspData := 0x00, rspValid := true, seq := .idle }) ∧
  (∀ (s : State) (arg : Byte), (arg ≠ 4 ∧ arg ≠ 8) ∨ s.mode ≠ .undef →
    exec (.init arg) s = .next { s with
      rspStatus := .contract, rspData := 0x00, rspValid := true, seq := .idle, fault := true }) ∧
  (∀ (w : CmdWord) (i : Instr) (s t : State), decode (.command w) = .ok i → s.mode = .undef → exec i s = .next t →
    t.mode ≠ .undef → ∃ arg, i = .init arg)

/-- R133: DEINIT emits PORT_DEINIT in every mode, floats every line, unbinds MODE, and does not clear FAULT. SAMPLE, HI and K after it
are left open (R35, R275; log 7). -/
def Obligations.DeinitEndsSession : Prop :=
  ∀ (arg : Byte) (s : State), ∃ sample hi k,
    exec (.deinit arg) s = .next { s with
      mode := .undef
      lines := { rs := .u, rw := .u, ce := .u, dir4 := .u, dir8 := .u, dout := .u }
      sample := sample, hi := hi, k := k
      trace := s.trace ++ [ev .portDeinit]
      rspStatus := .ok, rspData := 0x00, rspValid := true, seq := .idle }

/-- R35, R275 with R28: no scratch register survives DEINIT: SAMPLE, HI and K after it depend on nothing they held before, and K is
within its range. That they are free values is the model's choice (log 7). -/
def Obligations.DeinitForgetsScratch : Prop :=
  ∀ (a b : Byte) (sample : Byte) (hi : Nibble) (k : Nat) (s : State),
    ∃ t u, exec (.deinit a) s = .next t ∧ exec (.deinit b) { s with sample := sample, hi := hi, k := k } = .next u ∧
      u = t ∧ t.k ≤ s.cfg.busyRetryMax

/-- R131: before INIT every command of the operation set is the stub. -/
def Obligations.CommandsBeforeInitAreStubs : Prop :=
  ∀ (a : Byte) (s : State) (i : Instr), s.mode = .undef →
    i = .writeInstr a ∨ i = .writeData a ∨ i = .readInstr a ∨ i = .readData a ∨ i = .waitBusy a ∨ i = .initCtrl a →
    exec i s = .next { s with
      rspStatus := .notInit, rspData := 0xFF, rspValid := true, seq := .idle, fault := true }

/-- R135: after DEINIT, an INIT of either width starts a session in the state of R35's column "after INIT". -/
def Obligations.SessionsRepeat : Prop :=
  ∀ (a arg : Byte) (s : State), arg = 4 ∨ arg = 8 →
    ∃ t u, exec (.deinit a) s = .next t ∧ exec (.init arg) (takeResponse t) = .next u ∧
      u.mode = (if arg = 4 then .m4 else .m8) ∧
      u.lines =
        { rs := .low, rw := .high, ce := .low, dir4 := if arg = 4 then .input else .u,
          dir8 := if arg = 4 then .u else .input, dout := .u } ∧
      u.trace = s.trace ++ [ev .portDeinit, ev (.portInit arg)] ∧ u.fault = s.fault ∧
      u.rspStatus = .ok ∧ u.rspData = 0x00 ∧ u.rspValid = true ∧ u.seq = .idle ∧ u.is = s.is

/-! ## Write and read commands -/

/-- R154, R155 with R150, R151: the write commands of both widths: the events, the end state, no poll, and nothing else. -/
def Obligations.WriteCommandsEmitTheirCycle : Prop :=
  ∀ (v : Byte) (s : State),
    (s.mode = .m8 →
      exec (.writeInstr v) s = .next { s with
        lines := { s.lines with rs := .low, rw := .high, ce := .low, dir8 := .input, dout := .byte v }
        trace := s.trace ++ evs [.clrRs, .clrRw, .setCe, .out8 v, .dirOut8, .clrCe, .dirIn8, .setRw]
        rspStatus := .ok, rspData := 0x00, rspValid := true, seq := .idle } ∧
      exec (.writeData v) s = .next { s with
        lines := { s.lines with rs := .high, rw := .high, ce := .low, dir8 := .input, dout := .byte v }
        trace := s.trace ++ evs [.setRs, .clrRw, .setCe, .out8 v, .dirOut8, .clrCe, .dirIn8, .setRw]
        rspStatus := .ok, rspData := 0x00, rspValid := true, seq := .idle }) ∧
    (s.mode = .m4 →
      exec (.writeInstr v) s = .next { s with
        lines :=
          { s.lines with rs := .low, rw := .high, ce := .low, dir4 := .input, dout := .nibble (v.extractLsb' 0 4) }
        trace := s.trace ++ evs
          [.clrRs, .clrRw, .setCe, .out4 ((v.extractLsb' 4 4).setWidth 8), .dirOut4, .clrCe,
           .setCe, .out4 ((v.extractLsb' 0 4).setWidth 8), .clrCe, .dirIn4, .setRw]
        rspStatus := .ok, rspData := 0x00, rspValid := true, seq := .idle } ∧
      exec (.writeData v) s = .next { s with
        lines :=
          { s.lines with rs := .high, rw := .high, ce := .low, dir4 := .input, dout := .nibble (v.extractLsb' 0 4) }
        trace := s.trace ++ evs
          [.setRs, .clrRw, .setCe, .out4 ((v.extractLsb' 4 4).setWidth 8), .dirOut4, .clrCe,
           .setCe, .out4 ((v.extractLsb' 0 4).setWidth 8), .clrCe, .dirIn4, .setRw]
        rspStatus := .ok, rspData := 0x00, rspValid := true, seq := .idle })

/-- R174, R175 with R170 to R172: the read commands in M8. The value is whatever the LCD answers (R176). -/
def Obligations.ReadCommandsInM8 : Prop :=
  ∀ (a : Byte) (s : State), s.mode = .m8 → s.lines.dir8 = .input →
    exec (.readInstr a) s = .next { s with
      lines := { s.lines with rs := .low, rw := .high, ce := .low }
      sample := rdataAt s 0
      answers := s.answers.drop 1
      draws := s.draws + 1
      trace := s.trace ++ [ev .clrRs, ev .setRw, ev .setCe, in8Event (rdataAt s 0), ev .clrCe]
      rspStatus := .ok, rspData := rdataAt s 0, rspValid := true, seq := .idle } ∧
    exec (.readData a) s = .next { s with
      lines := { s.lines with rs := .high, rw := .high, ce := .low }
      sample := rdataAt s 0
      answers := s.answers.drop 1
      draws := s.draws + 1
      trace := s.trace ++ [ev .setRs, ev .setRw, ev .setCe, in8Event (rdataAt s 0), ev .clrCe]
      rspStatus := .ok, rspData := rdataAt s 0, rspValid := true, seq := .idle }

/-- R174, R175 with R171, R52, R63: the read commands in M4: two separate draws, high nibble first, pev_rdata[3:0] of each. -/
def Obligations.ReadCommandsInM4 : Prop :=
  ∀ (a : Byte) (s : State), s.mode = .m4 → s.lines.dir4 = .input →
    let high : Nibble := (rdataAt s 0).extractLsb' 0 4
    let low : Nibble := (rdataAt s 1).extractLsb' 0 4
    let v : Byte := high ++ low
    exec (.readInstr a) s = .next { s with
      lines := { s.lines with rs := .low, rw := .high, ce := .low }
      hi := high
      sample := v
      answers := s.answers.drop 2
      draws := s.draws + 2
      trace := s.trace ++
        [ev .clrRs, ev .setRw, ev .setCe, in4Event high, ev .clrCe, ev .setCe, in4Event low, ev .clrCe]
      rspStatus := .ok, rspData := v, rspValid := true, seq := .idle } ∧
    exec (.readData a) s = .next { s with
      lines := { s.lines with rs := .high, rw := .high, ce := .low }
      hi := high
      sample := v
      answers := s.answers.drop 2
      draws := s.draws + 2
      trace := s.trace ++
        [ev .setRs, ev .setRw, ev .setCe, in4Event high, ev .clrCe, ev .setCe, in4Event low, ev .clrCe]
      rspStatus := .ok, rspData := v, rspValid := true, seq := .idle }

/-- R173: recombination is 16·HI + lo, and the two fields come back out. -/
def Obligations.NibblesRecombineExactly : Prop :=
  ∀ hi lo : Nibble,
    (joinNibbles hi lo).toNat = 16 * hi.toNat + lo.toNat ∧ highNibble (joinNibbles hi lo) = hi ∧
    lowNibble (joinNibbles hi lo) = lo

/-! ## The poller -/

/-- R190 with R193, R194: WAIT_BUSY in M8, when the (k+1)-th sample is the first ready one, and when all N are busy. -/
def Obligations.WaitBusyInM8 : Prop :=
  ∀ (a : Byte) (s : State), s.mode = .m8 → s.lines.dir8 = .input → 1 ≤ s.cfg.busyRetryMax →
    (∀ k, k < s.cfg.busyRetryMax → (rdataAt s k).getLsbD 7 = false →
      (∀ i, i < k → (rdataAt s i).getLsbD 7 = true) →
      exec (.waitBusy a) s = .next { s with
        lines := { s.lines with rs := .low, rw := .high, ce := .low }
        sample := rdataAt s k
        k := k + 1
        answers := s.answers.drop (k + 1)
        draws := s.draws + (k + 1)
        trace := s.trace ++
          ([ev .clrRs, ev .setRw, ev .setCe] ++ (List.range (k + 1)).map (fun i => in8Event (rdataAt s i)) ++ [ev .clrCe])
        rspStatus := .ok, rspData := 0x00, rspValid := true, seq := .idle }) ∧
    ((∀ i, i < s.cfg.busyRetryMax → (rdataAt s i).getLsbD 7 = true) →
      exec (.waitBusy a) s = .next { s with
        lines := { s.lines with rs := .low, rw := .high, ce := .low }
        sample := rdataAt s (s.cfg.busyRetryMax - 1)
        k := s.cfg.busyRetryMax
        answers := s.answers.drop s.cfg.busyRetryMax
        draws := s.draws + s.cfg.busyRetryMax
        trace := s.trace ++
          ([ev .clrRs, ev .setRw, ev .setCe] ++
            (List.range s.cfg.busyRetryMax).map (fun i => in8Event (rdataAt s i)) ++ [ev .clrCe])
        rspStatus := .timeout, rspData := 0x00, rspValid := true, seq := .idle })

/-- R191 with R193, R194: WAIT_BUSY in M4; a sample is a whole nibble pair, and bit 7 is bit 3 of its high nibble. -/
def Obligations.WaitBusyInM4 : Prop :=
  ∀ (a : Byte) (s : State), s.mode = .m4 → s.lines.dir4 = .input → 1 ≤ s.cfg.busyRetryMax →
    (∀ k, k < s.cfg.busyRetryMax → (rdataAt s (2 * k)).getLsbD 3 = false →
      (∀ i, i < k → (rdataAt s (2 * i)).getLsbD 3 = true) →
      exec (.waitBusy a) s = .next { s with
        lines := { s.lines with rs := .low, rw := .high, ce := .low }
        hi := lowNibble (rdataAt s (2 * k))
        sample := pairByte (rdataAt s) k
        k := k + 1
        answers := s.answers.drop (2 * (k + 1))
        draws := s.draws + 2 * (k + 1)
        trace := s.trace ++ pollTrace4 (k + 1) (rdataAt s)
        rspStatus := .ok, rspData := 0x00, rspValid := true, seq := .idle }) ∧
    ((∀ i, i < s.cfg.busyRetryMax → (rdataAt s (2 * i)).getLsbD 3 = true) →
      exec (.waitBusy a) s = .next { s with
        lines := { s.lines with rs := .low, rw := .high, ce := .low }
        hi := lowNibble (rdataAt s (2 * (s.cfg.busyRetryMax - 1)))
        sample := pairByte (rdataAt s) (s.cfg.busyRetryMax - 1)
        k := s.cfg.busyRetryMax
        answers := s.answers.drop (2 * s.cfg.busyRetryMax)
        draws := s.draws + 2 * s.cfg.busyRetryMax
        trace := s.trace ++ pollTrace4 s.cfg.busyRetryMax (rdataAt s)
        rspStatus := .timeout, rspData := 0x00, rspValid := true, seq := .idle })

/-- R194, R197, R198: WAIT_BUSY completes whatever the LCD answers, within N samples, and leaves RS = 0, RW = 1, CE = 0, DIR = IN. -/
def Obligations.WaitBusyAlwaysCompletes : Prop :=
  ∀ (a : Byte) (s : State), busReadable s → 1 ≤ s.cfg.busyRetryMax →
    ∃ t, exec (.waitBusy a) s = .next t ∧ 1 ≤ t.k ∧ t.k ≤ s.cfg.busyRetryMax ∧
      (t.rspStatus = .ok ∧ t.sample.getLsbD 7 = false ∨
        t.rspStatus = .timeout ∧ t.sample.getLsbD 7 = true ∧ t.k = s.cfg.busyRetryMax) ∧
      t.rspData = 0x00 ∧ t.rspValid = true ∧ t.seq = .idle ∧ t.fault = s.fault ∧
      (s.mode = .m8 → t.trace.length = s.trace.length + 4 + t.k) ∧
      (s.mode = .m4 → t.trace.length = s.trace.length + 2 + 6 * t.k) ∧
      t.lines.rs = .low ∧ t.lines.rw = .high ∧ t.lines.ce = .low ∧ busReadable t

/-- R192: two runs whose samples agree in bit 7 alone have the same outcome and the same count. -/
def Obligations.PollOutcomeDependsOnBusyBitOnly : Prop :=
  ∀ (a b : Byte) (s s' : State), busReadable s → busReadable s' → s.mode = s'.mode → 1 ≤ s.cfg.busyRetryMax →
    s.cfg.busyRetryMax = s'.cfg.busyRetryMax →
    (∀ i, s.mode = .m8 → (rdataAt s i).getLsbD 7 = (rdataAt s' i).getLsbD 7) →
    (∀ i, s.mode = .m4 → (rdataAt s (2 * i)).getLsbD 3 = (rdataAt s' (2 * i)).getLsbD 3) →
    ∃ t t', exec (.waitBusy a) s = .next t ∧ exec (.waitBusy b) s' = .next t' ∧
      t.rspStatus = t'.rspStatus ∧ t.k = t'.k

/-- R8: a configuration with N = 0 is refused. -/
def Obligations.RetryCeilingZeroIsRefused : Prop :=
  ∀ s : State, s.cfg.busyRetryMax = 0 → step s = .refused .retryCeilingZero

/-! ## Controller initialization -/

/-- R211, R213, R216, R217: INIT_CTRL in M8, every outcome: its exact events and its whole end state: the last code written in
DOUT, the last sample, the last poll's count, and every answer drawn. -/
def Obligations.InitCtrlInM8 : Prop :=
  ∀ (a : Byte) (s : State), s.mode = .m8 → s.lines.dir8 = .input → 1 ≤ s.cfg.busyRetryMax →
    let n := s.cfg.busyRetryMax
    let f1 := rdataAt s
    let k1 := sampleCount n f1
    let f2 := fun i => f1 (k1 + i)
    let k2 := sampleCount n f2
    let f3 := fun i => f2 (k2 + i)
    let k3 := sampleCount n f3
    let ok1 := pollReady n f1
    let ok2 := pollReady n f2
    let taken := if ok1 then (if ok2 then k1 + k2 + k3 else k1 + k2) else k1
    exec (.initCtrl a) s = .next { s with
      lines :=
        { s.lines with
          rs := .low, rw := .high, ce := .low, dir8 := .input
          dout := .byte (if ok1 then (if ok2 then 0x06 else 0x01) else 0x0C) }
      sample := f1 (taken - 1)
      k := if ok1 then (if ok2 then k3 else k2) else k1
      answers := s.answers.drop taken
      draws := s.draws + taken
      trace := s.trace ++
        (evs (w8 false 0x3C) ++ [ev (.delay s.cfg.delayFs1Us)] ++ evs (w8 false 0x3C) ++ [ev (.delay s.cfg.delayFs2Us)] ++
          evs (w8 false 0x0C) ++ pollTrace8 k1 f1 ++
          (if ok1 then
            evs (w8 false 0x01) ++ pollTrace8 k2 f2 ++
            (if ok2 then evs (w8 false 0x06) ++ pollTrace8 k3 f3 else [])
          else []))
      rspStatus := if ok1 && ok2 && pollReady n f3 then .ok else .timeout
      rspData := 0x00, rspValid := true, seq := .idle, is := .idle }

/-- R212, R213, R214, R216, R217: INIT_CTRL in M4, every outcome: its exact events and its whole end state; HI and SAMPLE are those of
the last nibble pair. -/
def Obligations.InitCtrlInM4 : Prop :=
  ∀ (a : Byte) (s : State), s.mode = .m4 → s.lines.dir4 = .input → 1 ≤ s.cfg.busyRetryMax →
    let n := s.cfg.busyRetryMax
    let f1 := rdataAt s
    let k1 := sampleCount n (pairByte f1)
    let f2 := fun i => f1 (2 * k1 + i)
    let k2 := sampleCount n (pairByte f2)
    let f3 := fun i => f2 (2 * k2 + i)
    let k3 := sampleCount n (pairByte f3)
    let code := s.cfg.funcset4Code
    let ok1 := pollReady n (pairByte f1)
    let ok2 := pollReady n (pairByte f2)
    let taken := if ok1 then (if ok2 then k1 + k2 + k3 else k1 + k2) else k1
    exec (.initCtrl a) s = .next { s with
      lines :=
        { s.lines with
          rs := .low, rw := .high, ce := .low, dir4 := .input
          dout := .nibble (if ok1 then (if ok2 then 0x6 else 0x1) else 0xC) }
      hi := lowNibble (f1 (2 * (taken - 1)))
      sample := pairByte f1 (taken - 1)
      k := if ok1 then (if ok2 then k3 else k2) else k1
      answers := s.answers.drop (2 * taken)
      draws := s.draws + 2 * taken
      trace := s.trace ++
        (evs (w4n false 0x3) ++ evs (w4 false code) ++ [ev (.delay s.cfg.delayFs1Us)] ++ evs (w4 false code) ++
          [ev (.delay s.cfg.delayFs2Us)] ++ evs (w4 false 0x0C) ++ pollTrace4 k1 f1 ++
          (if ok1 then
            evs (w4 false 0x01) ++ pollTrace4 k2 f2 ++
            (if ok2 then evs (w4 false 0x06) ++ pollTrace4 k3 f3 else [])
          else []))
      rspStatus := if ok1 && ok2 && pollReady n (pairByte f3) then .ok else .timeout
      rspData := 0x00, rspValid := true, seq := .idle, is := .idle }

/-- R218: the event counts of INIT_CTRL, by width and outcome, for sample counts between 1 and N. -/
def Obligations.InitCtrlEventCounts : Prop :=
  ∀ (a : Byte) (s : State), busReadable s → 1 ≤ s.cfg.busyRetryMax →
    let n := s.cfg.busyRetryMax
    let f1 := rdataAt s
    let f2 := fun i => f1 (pollDraws s.mode n f1 + i)
    let f3 := fun i => f2 (pollDraws s.mode n f2 + i)
    let count := fun f : Nat → Byte => if s.mode = .m8 then sampleCount n f else sampleCount n (pairByte f)
    let ok := pollOk s.mode n
    ∃ t, exec (.initCtrl a) s = .next t ∧
      (∀ f, 1 ≤ count f ∧ count f ≤ n) ∧
      (s.mode = .m8 →
        (ok f1 = true ∧ ok f2 = true ∧ ok f3 = true →
          t.rspStatus = .ok ∧ t.trace.length = s.trace.length + (54 + count f1 + count f2 + count f3)) ∧
        (ok f1 = false → t.rspStatus = .timeout ∧ t.trace.length = s.trace.length + (30 + n)) ∧
        (ok f1 = true ∧ ok f2 = false →
          t.rspStatus = .timeout ∧ t.trace.length = s.trace.length + (42 + count f1 + n)) ∧
        (ok f1 = true ∧ ok f2 = true ∧ ok f3 = false →
          t.rspStatus = .timeout ∧ t.trace.length = s.trace.length + (54 + count f1 + count f2 + n))) ∧
      (s.mode = .m4 →
        (ok f1 = true ∧ ok f2 = true ∧ ok f3 = true →
          t.rspStatus = .ok ∧ t.trace.length = s.trace.length + (71 + 6 * (count f1 + count f2 + count f3))) ∧
        (ok f1 = false → t.rspStatus = .timeout ∧ t.trace.length = s.trace.length + (45 + 6 * n)) ∧
        (ok f1 = true ∧ ok f2 = false →
          t.rspStatus = .timeout ∧ t.trace.length = s.trace.length + (58 + 6 * (count f1 + n))) ∧
        (ok f1 = true ∧ ok f2 = true ∧ ok f3 = false →
          t.rspStatus = .timeout ∧ t.trace.length = s.trace.length + (71 + 6 * (count f1 + count f2 + n))))

/-- R215, R30: the transitions of the FSM, step by step: within a state, on to the next, out on the first TIMEOUT, out at the end; no
other. Every event moves j on by one. Before INIT the step is the NOT_INIT stub. -/
def Obligations.InitFsmHasNoOtherTransition : Prop :=
  ∀ (arg : Byte) (j i : Nat) (b : Byte) (s t : State), s.seq = .run .initCtrl arg j i b → s.rspValid = false →
    s.resetReq = false → step s = .next t →
    (s.mode = .undef → t.is = s.is ∧ t.seq = .idle ∧ t.rspStatus = .notInit ∧ t.trace = s.trace) ∧
    (s.mode ≠ .undef →
      (t.is = s.is ∧ ∃ b', t.seq = .run .initCtrl arg (j + 1) (i + 1) b') ∨
      ((∃ b', t.seq = .run .initCtrl arg (j + 1) 0 b') ∧
        (s.is = .pre ∧ t.is = .fs1 ∨ s.is = .fs1 ∧ t.is = .d1 ∨ s.is = .d1 ∧ t.is = .fs2 ∨ s.is = .fs2 ∧ t.is = .d2 ∨
          s.is = .d2 ∧ t.is = .dc ∨ s.is = .dc ∧ t.is = .dcP ∨ s.is = .clr ∧ t.is = .clrP ∨ s.is = .em ∧ t.is = .emP ∨
          (s.is = .dcP ∧ t.is = .clr ∨ s.is = .clrP ∧ t.is = .em) ∧ t.sample.getLsbD 7 = false)) ∨
      (t.seq = .idle ∧ t.is = .idle ∧ t.rspValid = true ∧ t.rspData = 0x00 ∧
        (s.is = .emP ∧ t.sample.getLsbD 7 = false ∧ t.rspStatus = .ok ∨
          (s.is = .dcP ∨ s.is = .clrP ∨ s.is = .emP) ∧ t.sample.getLsbD 7 = true ∧ t.rspStatus = .timeout)))

/-! ## Port events -/

/-- R101, R102: the session events. -/
def Obligations.PortSessionEvents : Prop :=
  ∀ s : State,
    exec (.portInit 8) s = .next { s with
      lines := { s.lines with ce := .low, rs := .low, rw := .high, dir8 := .input, dout := .u }
      trace := s.trace ++ [ev (.portInit 8)] } ∧
    exec (.portInit 4) s = .next { s with
      lines := { s.lines with ce := .low, rs := .low, rw := .high, dir4 := .input, dout := .u }
      trace := s.trace ++ [ev (.portInit 4)] } ∧
    (∀ w, w ≠ 4 → w ≠ 8 → exec (.portInit w) s = .fault .badPortWidth) ∧
    exec .portDeinit s = .next { s with
      lines := { rs := .u, rw := .u, ce := .u, dir4 := .u, dir8 := .u, dout := .u }
      trace := s.trace ++ [ev .portDeinit] }

/-- R103 to R108: the control-line events within a session; each is emitted even when it changes nothing (R119). -/
def Obligations.ControlLineEvents : Prop :=
  ∀ s : State, s.mode ≠ .undef →
    exec .setRs s = .next { s with lines := { s.lines with rs := .high }, trace := s.trace ++ [ev .setRs] } ∧
    exec .clrRs s = .next { s with lines := { s.lines with rs := .low }, trace := s.trace ++ [ev .clrRs] } ∧
    exec .setRw s = .next { s with lines := { s.lines with rw := .high }, trace := s.trace ++ [ev .setRw] } ∧
    exec .clrRw s = .next { s with lines := { s.lines with rw := .low }, trace := s.trace ++ [ev .clrRw] } ∧
    exec .setCe s = .next { s with lines := { s.lines with ce := .high }, trace := s.trace ++ [ev .setCe] } ∧
    exec .clrCe s = .next { s with lines := { s.lines with ce := .low }, trace := s.trace ++ [ev .clrCe] }

/-- R109 to R112: the direction events, in the mode of their width, in the other, and outside a session. -/
def Obligations.DirectionEvents : Prop :=
  ∀ s : State,
    (s.mode = .m4 →
      exec .dirIn4 s = .next { s with lines := { s.lines with dir4 := .input }, trace := s.trace ++ [ev .dirIn4] } ∧
      exec .dirOut4 s = .next { s with lines := { s.lines with dir4 := .output }, trace := s.trace ++ [ev .dirOut4] } ∧
      exec .dirIn8 s = .fault .wrongWidth ∧ exec .dirOut8 s = .fault .wrongWidth) ∧
    (s.mode = .m8 →
      exec .dirIn8 s = .next { s with lines := { s.lines with dir8 := .input }, trace := s.trace ++ [ev .dirIn8] } ∧
      exec .dirOut8 s = .next { s with lines := { s.lines with dir8 := .output }, trace := s.trace ++ [ev .dirOut8] } ∧
      exec .dirIn4 s = .fault .wrongWidth ∧ exec .dirOut4 s = .fault .wrongWidth) ∧
    (s.mode = .undef → ∀ i ∈ [Instr.dirIn4, .dirOut4, .dirIn8, .dirOut8], exec i s = .fault .eventOutsideSession)

/-- R113, R114, R56: the output events write the latch and nothing else on the port. -/
def Obligations.OutputEvents : Prop :=
  ∀ (n v : Byte) (s : State),
    (s.mode = .m4 → n.toNat ≤ 15 →
      exec (.out4 n) s = .next { s with
        lines := { s.lines with dout := .nibble (n.extractLsb' 0 4) }, trace := s.trace ++ [ev (.out4 n)] }) ∧
    (s.mode = .m4 → 15 < n.toNat → exec (.out4 n) s = .fault .outValueTooWide) ∧
    (s.mode = .m8 → exec (.out8 v) s = .next { s with
        lines := { s.lines with dout := .byte v }, trace := s.trace ++ [ev (.out8 v)] }) ∧
    (s.mode = .m8 → exec (.out4 n) s = .fault .wrongWidth) ∧ (s.mode = .m4 → exec (.out8 v) s = .fault .wrongWidth)

/-- R115, R116: the input events bind a fresh answer and change no register; IN needs the direction IN. -/
def Obligations.InputEvents : Prop :=
  ∀ s : State,
    (s.mode = .m4 → s.lines.dir4 = .input →
      exec .in4 s = .next { s with
        trace := s.trace ++ [in4Event ((rdataAt s 0).extractLsb' 0 4)]
        answers := s.answers.drop 1, draws := s.draws + 1 }) ∧
    (s.mode = .m8 → s.lines.dir8 = .input →
      exec .in8 s = .next { s with
        trace := s.trace ++ [in8Event (rdataAt s 0)]
        answers := s.answers.drop 1, draws := s.draws + 1 }) ∧
    (s.mode = .m4 → s.lines.dir4 ≠ .input → exec .in4 s = .fault .inputWhileNotInput) ∧
    (s.mode = .m8 → s.lines.dir8 ≠ .input → exec .in8 s = .fault .inputWhileNotInput) ∧
    (s.mode = .m8 → exec .in4 s = .fault .wrongWidth) ∧ (s.mode = .m4 → exec .in8 s = .fault .wrongWidth) ∧
    (s.mode = .undef → exec .in4 s = .fault .eventOutsideSession ∧ exec .in8 s = .fault .eventOutsideSession)

/-- R117: DELAY changes no line and no register. That it faults outside a session is read from R118 and R100 (log 15). -/
def Obligations.DelayEvent : Prop :=
  ∀ (us : Micros) (s : State),
    (s.mode ≠ .undef → exec (.delay us) s = .next { s with trace := s.trace ++ [ev (.delay us)] }) ∧
    (s.mode = .undef → exec (.delay us) s = .fault .eventOutsideSession)

/-- R118: an event instruction faults exactly when it is one of the port contract violations, and otherwise runs. That DELAY outside a
session is one is read from R118 and R100 (log 15). -/
def Obligations.EventsFaultExactlyOnContractViolations : Prop :=
  ∀ (w n v : Byte) (us : Micros) (i : Instr) (s : State),
    i ∈ [Instr.portInit w, .portDeinit, .setRs, .clrRs, .setRw, .clrRw, .setCe, .clrCe, .dirIn4, .dirIn8, .dirOut4, .dirOut8,
      .out4 n, .out8 v, .in4, .in8, .delay us] →
    let violates :=
      (i = .out4 n ∧ 15 < n.toNat) ∨
      (i ∈ [Instr.dirIn4, .dirOut4, .out4 n, .in4] ∧ s.mode = .m8) ∨
      (i ∈ [Instr.dirIn8, .dirOut8, .out8 v, .in8] ∧ s.mode = .m4) ∨
      (i = .in4 ∧ s.lines.dir4 ≠ .input) ∨ (i = .in8 ∧ s.lines.dir8 ≠ .input) ∨
      (i ≠ .portInit w ∧ i ≠ .portDeinit ∧ s.mode = .undef) ∨
      (i = .portInit w ∧ w ≠ 4 ∧ w ≠ 8)
    (violates → ∃ x, exec i s = .fault x) ∧ (¬ violates → ∃ t, exec i s = .next t)

/-! ## LCD codes and pseudo-instructions -/

/-- R79, R83 to R85 with the cycles of R150 to R152: an LCD code on its own is its instruction write in the bound width, and SET_DDRAM is
a WRITE_INSTR byte. Outside a session the six codes stop, as events there do. That a code on its own has this meaning is the model's
choice, log 12 and 13. -/
def Obligations.LcdCodesAreTheirWriteCycles : Prop :=
  ∀ (addr : BitVec 7) (s : State),
    (s.mode = .m8 → ∀ i v, (i, v) ∈ [(Instr.funcset8, (0x3C : Byte)), (.dispctrl, 0x0C), (.clear, 0x01), (.entry, 0x06)] →
      exec i s = .next { s with
        lines := { s.lines with rs := .low, rw := .high, ce := .low, dir8 := .input, dout := .byte v }
        trace := s.trace ++ evs (w8 false v) }) ∧
    (s.mode = .m4 →
      ∀ i v, (i, v) ∈ [(Instr.funcset8, (0x3C : Byte)), (.dispctrl, 0x0C), (.clear, 0x01), (.entry, 0x06),
        (.funcset4, s.cfg.funcset4Code)] →
      exec i s = .next { s with
        lines := { s.lines with rs := .low, rw := .high, ce := .low, dir4 := .input, dout := .nibble (lowNibble v) }
        trace := s.trace ++ evs (w4 false v) }) ∧
    (s.mode = .m4 →
      exec .prelim s = .next { s with
        lines := { s.lines with rs := .low, rw := .high, ce := .low, dir4 := .input, dout := .nibble 0x3 }
        trace := s.trace ++ evs (w4n false 0x3) }) ∧
    (s.mode ≠ .undef → ∃ t, exec (.setDdram addr) s = .next t ∧
      exec (.writeInstr (0x80 ||| addr.setWidth 8)) s = .next t) ∧
    (s.mode = .undef → exec (.setDdram addr) s = exec (.writeInstr (0x80 ||| addr.setWidth 8)) s) ∧
    (s.mode = .m8 → exec .prelim s = .fault .wrongWidth ∧ exec .funcset4 s = .fault .wrongWidth) ∧
    (s.mode = .undef → ∀ i ∈ [Instr.funcset8, .dispctrl, .clear, .entry, .prelim, .funcset4],
      exec i s = .fault .eventOutsideSession)

/-- R88, R62: cwri and cwrd are the write, then WAIT_BUSY, whose status is the whole's. With rsp_ready = 0 the write's response waits and
`waitbusy` stays offered; before INIT both words are stubs (R131). That the host takes the first response between them is read from
R286 (log 17). -/
def Obligations.PseudoIsWriteThenPoll : Prop :=
  ∀ (v a : Byte) (s : State), 1 ≤ s.cfg.busyRetryMax →
    (busReadable s → s.rspReady = true →
      (∃ t u, exec (.writeInstr v) s = .next t ∧ exec (.waitBusy a) (takeResponse t) = .next u ∧
        exec (.cwri v) s = .next u ∧ u.delivered = s.delivered ++ [⟨.ok, 0x00⟩] ∧ u.rspValid = true) ∧
      (∃ t u, exec (.writeData v) s = .next t ∧ exec (.waitBusy a) (takeResponse t) = .next u ∧
        exec (.cwrd v) s = .next u ∧ u.delivered = s.delivered ++ [⟨.ok, 0x00⟩] ∧ u.rspValid = true)) ∧
    (s.mode ≠ .undef → s.rspReady = false →
      (∃ t, exec (.writeInstr v) s = .next t ∧ t.rspValid = true ∧
        exec (.cwri v) s = .next { t with queue := .command 0x700 :: s.queue }) ∧
      (∃ t, exec (.writeData v) s = .next t ∧ t.rspValid = true ∧
        exec (.cwrd v) s = .next { t with queue := .command 0x700 :: s.queue })) ∧
    (s.mode = .undef → ∀ i, i = .cwri v ∨ i = .cwrd v →
      (s.rspReady = true → exec i s = .next { s with
        rspStatus := .notInit, rspData := 0xFF, rspValid := true, seq := .idle, fault := true
        delivered := s.delivered ++ [⟨.notInit, 0xFF⟩] }) ∧
      (s.rspReady = false → exec i s = .next { s with
        rspStatus := .notInit, rspData := 0xFF, rspValid := true, seq := .idle, fault := true
        queue := .command 0x700 :: s.queue }))

/-! ## Whole-machine rules -/

/-- R21, R134: only INIT and DEINIT write MODE. -/
def Obligations.OnlyInitAndDeinitWriteMode : Prop :=
  ∀ (i : Instr) (s t : State), (∀ arg, i ≠ .init arg) → (∀ arg, i ≠ .deinit arg) → exec i s = .next t → t.mode = s.mode

/-- R32: every CONTRACT and NOT_INIT response sets FAULT, nothing else sets it, and nothing but a power-on reset clears it. -/
def Obligations.FaultIsStickyAndHasTwoCauses : Prop :=
  (∀ s t : State, s.resetReq = false → step s = .next t → s.fault = true → t.fault = true) ∧
  (∀ s t : State, step s = .next t → s.fault = false → t.fault = true →
    t.rspValid = true ∧ (t.rspStatus = .contract ∨ t.rspStatus = .notInit)) ∧
  (∀ (w : CmdWord) (i : Instr) (s t : State), decode (.command w) = .ok i → exec i s = .next t →
    t.rspStatus = .contract ∨ t.rspStatus = .notInit → t.fault = true) ∧
  (∀ s : State, s.cfg.busyRetryMax ≠ 0 → s.resetReq = true → ∃ t, step s = .next t ∧ t.fault = false)

/-- R260: only WAIT_BUSY and INIT_CTRL answer TIMEOUT; it is no fault, and the last sample stays in SAMPLE. -/
def Obligations.OnlyPollsTimeOut : Prop :=
  ∀ (w : CmdWord) (i : Instr) (s t : State), decode (.command w) = .ok i → exec i s = .next t → t.rspStatus = .timeout →
    ((∃ a, i = .waitBusy a) ∨ ∃ a, i = .initCtrl a) ∧ t.rspData = 0x00 ∧ t.fault = s.fault ∧
    t.sample.getLsbD 7 = true ∧ t.seq = .idle

/-- R59, R60: a step only adds events at the end of the trace and responses at the end of those delivered. -/
def Obligations.TraceAndResponsesOnlyGrow : Prop :=
  ∀ s t : State, step s = .next t →
    (∃ es, t.trace = s.trace ++ es) ∧ ∃ rs, t.delivered = s.delivered ++ rs

/-- R11, R33: no step changes the configuration. -/
def Obligations.ConfigurationNeverChanges : Prop :=
  ∀ s t : State, step s = .next t → t.cfg = s.cfg

/-- R55: the block never emits an event of the width it is not bound to. -/
def Obligations.EventsHaveTheBoundWidth : Prop :=
  ∀ s t : State, step s = .next t →
    ∃ es, t.trace = s.trace ++ es ∧
      ∀ e ∈ es, (isWidth8 e.op = true → s.mode = .m8) ∧ (isWidth4 e.op = true → s.mode = .m4)

/-! ## Steps -/

/-- When the packet offered decodes to an instruction and the block is ready, a command-paced step is exec of it, at the state with
the packet taken. That one step may run a whole command is the model's choice (log 1): R7's step is one event, and
EventStepsReachTheCommandsMeaning ties the two. -/
def Obligations.StepRunsTheDecodedInstruction : Prop :=
  ∀ (p : Packet) (rest : List Packet) (i : Instr) (s : State), s.cfg.busyRetryMax ≠ 0 → s.resetReq = false →
    s.rspValid = false → s.seq = .idle → s.pace = .command → s.queue = p :: rest → decode p = .ok i →
    step s = exec i { s with queue := rest }

/-- R30, R62, R88, R215: event-paced, accepting any command word sets SEQ to RUN(op, arg, 0) and emits nothing, whatever its answer will
be; INIT_CTRL starts at IS_PRE in M4 and IS_FS1 in M8. A pseudo-instruction begins its write, and `waitbusy` is offered next. What SEQ
holds beside (op, arg, 0) is the model's own (log 9) and is left open but for its place 0. That accepting is a step without an event is
the model's choice (log 10). -/
def Obligations.AcceptingStartsTheSequencer : Prop :=
  ∀ (arg : Byte) (rest : List Packet) (s : State), s.cfg.busyRetryMax ≠ 0 → s.resetReq = false → s.rspValid = false →
    s.seq = .idle → s.pace = .event →
    (∀ op, op ≠ .initCtrl → (∀ c, op = .reserved c → c = 0 ∨ 9 ≤ c.toNat) → s.queue = .command (op.code ++ arg) :: rest →
      ∃ b, step s = .next { s with queue := rest, seq := .run op arg 0 0 b }) ∧
    (s.queue = .command (0x8#4 ++ arg) :: rest →
      ∃ b, step s = .next { s with
        queue := rest, seq := .run .initCtrl arg 0 0 b
        is := if s.mode = .m4 then .pre else if s.mode = .m8 then .fs1 else .idle }) ∧
    (s.queue = .commandPair (0x3#4 ++ arg) 0x700 :: rest →
      ∃ b, step s = .next { s with queue := .command 0x700 :: rest, seq := .run .writeInstr arg 0 0 b }) ∧
    (s.queue = .commandPair (0x4#4 ++ arg) 0x700 :: rest →
      ∃ b, step s = .next { s with queue := .command 0x700 :: rest, seq := .run .writeData arg 0 0 b })

/-- R265 with R131, R263: event-paced, an accepted command that is turned away answers in its first step, with no event: reserved OP,
then the width of INIT, then INIT in a session, then a command of the operation set before INIT. That this takes a step of its own is
the model's choice (log 10). -/
def Obligations.TurnedAwayCommandsAnswerWithoutEvents : Prop :=
  ∀ (op : Op) (arg : Byte) (j i : Nat) (b : Byte) (s : State), s.cfg.busyRetryMax ≠ 0 → s.resetReq = false →
    s.rspValid = false → s.seq = .run op arg j i b →
    ((∃ c, op = .reserved c) ∨ (op = .init ∧ ((arg ≠ 4 ∧ arg ≠ 8) ∨ s.mode ≠ .undef)) →
      step s = .next { s with
        rspStatus := .contract, rspData := 0x00, rspValid := true, seq := .idle, fault := true }) ∧
    (s.mode = .undef → op ∈ [Op.writeInstr, .writeData, .readInstr, .readData, .waitBusy, .initCtrl] →
      step s = .next { s with
        rspStatus := .notInit, rspData := 0xFF, rspValid := true, seq := .idle, fault := true })

/-- R7, R30: every step of a command that executes emits exactly one port event; j moves on by one, or the response returns SEQ to IDLE;
a command that is turned away emits none (R262, R263) and answers. R262 and R263 say that there is no event, and R7 gives every step one:
that such a command answers in one step without an event, and that the response and SEQ = IDLE fall in the step of the last event, is
the model's choice (log 10). -/
def Obligations.OneEventPerStepOfARunningCommand : Prop :=
  ∀ (op : Op) (arg : Byte) (j i : Nat) (b : Byte) (s : State), BlockInv s → s.seq = .run op arg j i b → s.resetReq = false →
    (turnedAway op arg s = false →
      ∃ t e, step s = .next t ∧ t.trace = s.trace ++ [e] ∧
        ((∃ i' b', t.seq = .run op arg (j + 1) i' b') ∧ t.rspValid = false ∨ t.seq = .idle ∧ t.rspValid = true)) ∧
    (turnedAway op arg s = true →
      ∃ t, step s = .next t ∧ t.trace = s.trace ∧ t.seq = .idle ∧ t.rspValid = true ∧ t.fault = true)

/-- R170, R171 with R14, R174, R175: event-paced, a read writes HI with its first IN4, and SAMPLE only in the step of its last CLR_CE, from
what its last IN bound. That SEQ holds the bound value in between is the model's choice (log 9), and the step that a statement between two
events belongs to is its reading (log 8). -/
def Obligations.ReadsWriteSampleAfterTheirLastEvent : Prop :=
  ∀ (op : Op) (arg : Byte) (j : Nat) (b : Byte) (s : State), s.cfg.busyRetryMax ≠ 0 → s.resetReq = false →
    s.rspValid = false → op = .readInstr ∨ op = .readData →
    (s.mode = .m8 → s.lines.dir8 = .input → s.seq = .run op arg j 3 b →
      step s = .next { s with
        trace := s.trace ++ [in8Event (rdataAt s 0)]
        answers := s.answers.drop 1, draws := s.draws + 1, seq := .run op arg (j + 1) 4 (rdataAt s 0) }) ∧
    (s.mode = .m8 → s.seq = .run op arg j 4 b →
      step s = .next { s with
        lines := { s.lines with ce := .low }
        trace := s.trace ++ [ev .clrCe]
        sample := b, rspStatus := .ok, rspData := b, rspValid := true, seq := .idle }) ∧
    (s.mode = .m4 → s.lines.dir4 = .input → s.seq = .run op arg j 3 b →
      ∃ b', step s = .next { s with
        hi := lowNibble (rdataAt s 0)
        trace := s.trace ++ [in4Event (lowNibble (rdataAt s 0))]
        answers := s.answers.drop 1, draws := s.draws + 1, seq := .run op arg (j + 1) 4 b' }) ∧
    (s.mode = .m4 → s.lines.dir4 = .input → s.seq = .run op arg j 6 b →
      ∃ b', lowNibble b' = lowNibble (rdataAt s 0) ∧ step s = .next { s with
        trace := s.trace ++ [in4Event (lowNibble (rdataAt s 0))]
        answers := s.answers.drop 1, draws := s.draws + 1, seq := .run op arg (j + 1) 7 b' }) ∧
    (s.mode = .m4 → s.seq = .run op arg j 7 b →
      step s = .next { s with
        lines := { s.lines with ce := .low }
        trace := s.trace ++ [ev .clrCe]
        sample := s.hi ++ lowNibble b
        rspStatus := .ok, rspData := s.hi ++ lowNibble b, rspValid := true, seq := .idle })

/-- R190, R191 with R14: event-paced, a poll writes SAMPLE and counts it in the step of each IN8 in M8, and only in the step of a nibble
pair's last CLR_CE in M4, where HI is written with the first IN4; its answer comes with the event that ends it (log 10). The step that a
statement between two events belongs to is the model's reading (log 8), and the place and value SEQ holds are its choice (log 9). -/
def Obligations.PollsWriteSampleWhereTheLoopDoes : Prop :=
  ∀ (arg : Byte) (j : Nat) (b : Byte) (s : State), s.cfg.busyRetryMax ≠ 0 → s.resetReq = false → s.rspValid = false →
    (∀ q, s.mode = .m8 → s.lines.dir8 = .input → (s.k = 0 ∨ s.sample.getLsbD 7 = true ∧ s.k ≠ s.cfg.busyRetryMax) →
      s.seq = .run .waitBusy arg j (3 + q) b →
      ∃ b', step s = .next { s with
        sample := rdataAt s 0, k := s.k + 1
        trace := s.trace ++ [in8Event (rdataAt s 0)]
        answers := s.answers.drop 1, draws := s.draws + 1, seq := .run .waitBusy arg (j + 1) (4 + q) b' }) ∧
    (∀ q, s.mode = .m8 → s.k ≠ 0 → (s.sample.getLsbD 7 = false ∨ s.k = s.cfg.busyRetryMax) →
      s.seq = .run .waitBusy arg j (3 + q) b →
      step s = .next { s with
        lines := { s.lines with ce := .low }, trace := s.trace ++ [ev .clrCe]
        rspStatus := if s.sample.getLsbD 7 then .timeout else .ok
        rspData := 0x00, rspValid := true, seq := .idle }) ∧
    (∀ q, s.mode = .m4 → s.lines.dir4 = .input → s.seq = .run .waitBusy arg j (3 + 6 * q) b →
      ∃ b', step s = .next { s with
        hi := lowNibble (rdataAt s 0)
        trace := s.trace ++ [in4Event (lowNibble (rdataAt s 0))]
        answers := s.answers.drop 1, draws := s.draws + 1, seq := .run .waitBusy arg (j + 1) (4 + 6 * q) b' }) ∧
    (∀ q, s.mode = .m4 → s.lines.dir4 = .input → s.seq = .run .waitBusy arg j (6 + 6 * q) b →
      ∃ b', lowNibble b' = lowNibble (rdataAt s 0) ∧ step s = .next { s with
        trace := s.trace ++ [in4Event (lowNibble (rdataAt s 0))]
        answers := s.answers.drop 1, draws := s.draws + 1, seq := .run .waitBusy arg (j + 1) (7 + 6 * q) b' }) ∧
    (∀ q, s.mode = .m4 → s.seq = .run .waitBusy arg j (7 + 6 * q) b →
      let t := { s with
        lines := { s.lines with ce := .low }, trace := s.trace ++ [ev .clrCe]
        sample := s.hi ++ lowNibble b, k := s.k + 1 }
      (s.hi.getLsbD 3 = true ∧ s.k + 1 ≠ s.cfg.busyRetryMax →
        ∃ b', step s = .next { t with seq := .run .waitBusy arg (j + 1) (8 + 6 * q) b' }) ∧
      (s.hi.getLsbD 3 = false ∨ s.k + 1 = s.cfg.busyRetryMax →
        step s = .next { t with
          rspStatus := if s.hi.getLsbD 3 then .timeout else .ok
          rspData := 0x00, rspValid := true, seq := .idle }))

/-- R62, R75: a waiting response is delivered when the host is ready, and until then no command is accepted. That the hand-over is a step
without an event is the model's choice (log 10), and so is that a step with a response the host does not take answers the same state
(log 26). -/
def Obligations.ResponseHandshake : Prop :=
  ∀ s : State, s.cfg.busyRetryMax ≠ 0 → s.resetReq = false → s.rspValid = true →
    (s.rspReady = true →
      step s = .next { s with rspValid := false, delivered := s.delivered ++ [⟨s.rspStatus, s.rspData⟩] }) ∧
    (s.rspReady = false → step s = .next s)

/-- R51: in IDLE, with no command offered, the block waits. That the waiting step answers the same state is the model's choice (log 26). -/
def Obligations.IdleBlockWaits : Prop :=
  ∀ s : State, s.cfg.busyRetryMax ≠ 0 → s.resetReq = false → s.rspValid = false → s.seq = .idle → s.queue = [] →
    step s = .next s

/-- R280: the state after power-on reset. -/
def Obligations.PowerOnState : Prop :=
  State.reset.mode = .undef ∧ State.reset.lines = { rs := .u, rw := .u, ce := .u, dir4 := .u, dir8 := .u, dout := .u } ∧
  State.reset.seq = .idle ∧ State.reset.is = .idle ∧ State.reset.fault = false ∧ State.reset.trace = [] ∧
  cmdReady State.reset = true

/-- R281: a reset abandons a running command: no response, no event, the power-on state. What it keeps of the host's and the LCD's side is
the model's choice (log 19); the values of SAMPLE, HI, K and the response registers are not stated. -/
def Obligations.ResetAbandonsTheCommand : Prop :=
  ∀ s : State, s.cfg.busyRetryMax ≠ 0 → s.resetReq = true →
    ∃ t, step s = .next t ∧ t.mode = .undef ∧
      t.lines = { rs := .u, rw := .u, ce := .u, dir4 := .u, dir8 := .u, dout := .u } ∧ t.seq = .idle ∧ t.is = .idle ∧
      t.fault = false ∧ t.rspValid = false ∧ t.delivered = s.delivered ∧ t.trace = s.trace ∧ cmdReady t = true

/-! ## Invariant and refinement -/

/-- The invariant holds at reset. -/
def Obligations.ResetMeetsTheInvariant : Prop := BlockInv State.reset

/-- R36, R28, R153: every step keeps the invariant: the idle lines at IDLE, and, inside a command, lines that its events so far
account for. -/
def Obligations.EveryStepKeepsTheInvariant : Prop :=
  ∀ s t : State, BlockInv s → step s = .next t → BlockInv t

/-- R118, R153: from the invariant a step always answers a next state: the block's event lists contain no port contract violation, and no
position is missing. -/
def Obligations.TheBlockNeverViolatesThePortContract : Prop :=
  ∀ s : State, BlockInv s → ∃ t, step s = .next t

/-- R153: at every CLR_CE inside a write, RW = 0, the bound width's DIR is OUT, and DOUT holds the byte or nibble to be latched: the
byte in M8, its high nibble in the first pulse of M4 and its low nibble in the second, and PRELIM in the single pulse; at every IN
event that DIR is IN. -/
def Obligations.LatchInvariantAtEveryEdge : Prop :=
  ∀ (op : Op) (arg : Byte) (j i : Nat) (b : Byte) (s t : State), BlockInv s → s.seq = .run op arg j i b →
    s.resetReq = false → step s = .next t →
    (isWriting op s.is = true → t.trace = s.trace ++ [ev .clrCe] →
      s.lines.rw = .low ∧
      (s.mode = .m8 ∧ s.lines.dir8 = .output ∧ s.lines.dout = .byte (writtenByte op arg s) ∨
        s.mode = .m4 ∧ s.lines.dir4 = .output ∧
          (s.is = .pre ∧ s.lines.dout = .nibble 0x3 ∨
            s.is ≠ .pre ∧ i = 5 ∧ s.lines.dout = .nibble ((writtenByte op arg s).extractLsb' 4 4) ∨
            s.is ≠ .pre ∧ i = 8 ∧ s.lines.dout = .nibble ((writtenByte op arg s).extractLsb' 0 4)))) ∧
    ((∃ v, t.trace = s.trace ++ [⟨.in8, v⟩]) → s.mode = .m8 ∧ s.lines.dir8 = .input) ∧
    ((∃ v, t.trace = s.trace ++ [⟨.in4, v⟩]) → s.mode = .m4 ∧ s.lines.dir4 = .input)

/-- R130 to R216 against R30, R190, R191, R215: running what a host offers, a command or a pseudo-instruction, one event a step, from the
invariant, ends in the state its whole meaning gives. -/
def Obligations.EventStepsReachTheCommandsMeaning : Prop :=
  ∀ (p : Packet) (i : Instr) (rest : List Packet) (s : State), BlockInv s → s.seq = .idle → s.rspValid = false →
    s.resetReq = false → s.pace = .event → s.queue = p :: rest → decode p = .ok i →
    ∃ n t, exec i { s with queue := rest } = .next t ∧ Host.Core.run Sys2Proof.core n s = .next t

/-- R197, R219: every accepted command has its response after at most 72 + 18·N steps, whatever the LCD answers. The steps include the
accepting one, which emits no event (log 10); acknowledges are part of a step (log 2). -/
def Obligations.EveryCommandRespondsInBoundedSteps : Prop :=
  ∀ (w : CmdWord) (rest : List Packet) (s : State), BlockInv s → s.seq = .idle → s.rspValid = false → s.resetReq = false →
    s.pace = .event → s.queue = .command w :: rest →
    ∃ n t, n ≤ 72 + 18 * s.cfg.busyRetryMax ∧ Host.Core.run Sys2Proof.core n s = .next t ∧ t.rspValid = true ∧
      t.seq = .idle ∧ t.queue = rest ∧ t.delivered = s.delivered

/-! ## The reference host -/

/-- R243: GotoXY: the address of a position within bounds, the clamp of each axis, and the command it offers. -/
def Obligations.GotoXyAddress : Prop :=
  ∀ (g : Geometry) (x y : Int),
    (0 ≤ x → x < g.width → 0 ≤ y → y < g.height →
      ((ddramAddress g x y).toNat : Int) = (x + 64 * (y % 2) + g.width * (y / 2)) % 128) ∧
    (x < 0 ∨ g.width ≤ x → ddramAddress g x y = ddramAddress g 0 y) ∧
    (y < 0 ∨ g.height ≤ y → ddramAddress g x y = ddramAddress g x 0) ∧
    (1 ≤ g.width → 1 ≤ g.height →
      expandCall ⟨some g, true, true⟩ (.gotoXY x y) =
        .ok [.commandPair (0x3#4 ++ (0x80 ||| (ddramAddress g x y).setWidth 8)) 0x700])

/-- R244, R245: Putc writes its code or the space; Puts writes min(len, WIDTH) characters in order, each with its poll, or polls once. -/
def Obligations.PutcAndPutsOffer : Prop :=
  (∀ (h : DriverState) (c : Int), h.ready = true →
    expandCall h (.putc c) =
      .ok [.commandPair (0x4#4 ++ (if 0 ≤ c ∧ c ≤ 255 then BitVec.ofInt 8 c else 0x20)) 0x700]) ∧
  (∀ (g : Geometry) (chars : List Byte), 1 ≤ g.width → 1 ≤ g.height → chars ≠ [] →
    expandCall ⟨some g, true, true⟩ (.puts (some chars)) =
      .ok ((chars.take g.width.toNat).map fun c => .commandPair (0x4#4 ++ c) 0x700)) ∧
  (∀ g : Geometry, 1 ≤ g.width → 1 ≤ g.height →
    expandCall ⟨some g, true, true⟩ (.puts none) = .ok [.command 0x700] ∧
    expandCall ⟨some g, true, true⟩ (.puts (some [])) = .ok [.command 0x700])

/-- R241, R247: a host program that calls the driver before INIT and INIT_CTRL have returned OK, or GotoXY or Puts before a usable
geometry is set, is refused; only SetupScreenDimensions sets the geometry, and a session's end or a reset of the block takes the
initialisation with it. That a later TIMEOUT or the session's end does so is the model's reading (log 23). -/
def Obligations.HostProgramsNeedSetupAndInit : Prop :=
  (∀ (n : Nat) (c : DriverCall) (rest : List HostAction) (s : State), (∀ w h, c ≠ .setupScreenDimensions w h) →
    ∃ why, runHostProgram n (.call c :: rest) s = .error (.refused why)) ∧
  (∀ (h : DriverState) (c : DriverCall), (∀ w h', c ≠ .setupScreenDimensions w h') → h.ready = false →
    ∃ why, expandCall h c = .error why) ∧
  (∀ (h : DriverState) (x y : Int) (str : Option (List Byte)), (∀ g, h.geometry = some g → g.width < 1 ∨ g.height < 1) →
    expandCall h (.gotoXY x y) = .error .geometryNotSet ∧ expandCall h (.puts str) = .error .geometryNotSet) ∧
  (∀ (h : DriverState) (c : DriverCall) (w : CmdWord) (r : Response),
    (afterResponse h w r).geometry = h.geometry ∧
    ((∀ w h', c ≠ .setupScreenDimensions w h') → (afterCall h c).geometry = h.geometry)) ∧
  (∀ (h : DriverState) (x y : Int), (afterCall h (.setupScreenDimensions x y)).geometry = some ⟨x, y⟩) ∧
  (∀ (h : DriverState) (a : Byte) (d : Byte) (st : Status),
    (afterResponses h [0x108, 0x800] [⟨.ok, 0x00⟩, ⟨.ok, 0x00⟩]).ready = true ∧
    (afterResponses h [0x104, 0x800] [⟨.ok, 0x00⟩, ⟨.ok, 0x00⟩]).ready = true ∧
    (afterResponse h (0x8#4 ++ a) ⟨.timeout, d⟩).ready = false ∧ (afterResponse h (0x2#4 ++ a) ⟨st, d⟩).ready = false ∧
    (afterReset h).ready = false)
end

