-- ==== Sys2Proof/Laws/Decode.lean ====
section
/-! SUPPORT. The fields of a command word, of a SET_DDRAM byte and of a nibble pair, so that no proof unfolds them. -/

namespace Sys2Proof

theorem opField_cmdWord (op : Nibble) (arg : Byte) : opField (cmdWord op arg) = op := by
  unfold opField cmdWord
  ext i hi
  simp only [BitVec.getElem_extractLsb', BitVec.getLsbD_append]
  rw [if_neg (by omega), show 8 + i - 8 = i by omega, BitVec.getLsbD_eq_getElem hi]

theorem argField_cmdWord (op : Nibble) (arg : Byte) : argField (cmdWord op arg) = arg := by
  unfold argField cmdWord
  ext i hi
  simp only [BitVec.getElem_extractLsb', BitVec.getLsbD_append]
  rw [if_pos (by omega), Nat.zero_add, BitVec.getLsbD_eq_getElem hi]

/-- A command word is its two fields (R70). -/
theorem cmdWord_fields (w : CmdWord) : cmdWord (opField w) (argField w) = w := by
  unfold opField argField cmdWord
  ext i hi
  simp only [BitVec.getElem_append, BitVec.getElem_extractLsb']
  split
  · rw [Nat.zero_add, BitVec.getLsbD_eq_getElem hi]
  · rw [show 8 + (i - 8) = i by omega, BitVec.getLsbD_eq_getElem hi]

theorem codeSetDdram_addr (addr : BitVec 7) : (codeSetDdram addr).extractLsb' 0 7 = addr := by
  unfold codeSetDdram
  ext i hi
  simp only [BitVec.getElem_extractLsb', BitVec.getLsbD_append]
  rw [if_pos (by omega), Nat.zero_add, BitVec.getLsbD_eq_getElem hi]

theorem codeSetDdram_top (addr : BitVec 7) : (codeSetDdram addr).getLsbD 7 = true := by
  unfold codeSetDdram
  rw [BitVec.getLsbD_append, if_neg (by omega)]
  rfl

/-- A SET_DDRAM byte is none of the other codes: they have bit 7 clear (R79, R85). -/
theorem decodeLcdByte_setDdram (addr : BitVec 7) : decodeLcdByte (codeSetDdram addr) = .ok (.setDdram addr) := by
  have other : ∀ v : Byte, v.getLsbD 7 = false → codeSetDdram addr ≠ v := fun v hv e => by
    have := codeSetDdram_top addr
    rw [e, hv] at this
    cases this
  unfold decodeLcdByte
  rw [if_neg (other _ (by decide)), if_neg (other _ (by decide)), if_neg (other _ (by decide)), if_neg (other _ (by decide)),
    codeSetDdram_top, codeSetDdram_addr, if_pos rfl]

namespace Machine

/-- Recombination is concatenation (R52, R173). -/
theorem joinNibbles_eq_append (hi lo : Nibble) : joinNibbles hi lo = hi ++ lo := by
  revert hi lo
  decide

/-- No width but 4 and 8 (R71). -/
theorem busWidth_none {arg : Byte} (h4 : arg ≠ 4) (h8 : arg ≠ 8) : busWidth arg = none := by
  unfold busWidth
  rw [if_neg h4, if_neg h8]

end Machine

end Sys2Proof
end

