-- ==== Sys2Proof/Laws/State.lean ====
section
/-! SUPPORT. What each update of State does to each field, so that no later proof unfolds an update. -/

namespace Sys2Proof.Machine

/-! ## setFault -/

@[simp] theorem setFault_mode (s : State) : (setFault s).mode = s.mode := rfl
@[simp] theorem setFault_lines (s : State) : (setFault s).lines = s.lines := rfl
@[simp] theorem setFault_sample (s : State) : (setFault s).sample = s.sample := rfl
@[simp] theorem setFault_hi (s : State) : (setFault s).hi = s.hi := rfl
@[simp] theorem setFault_k (s : State) : (setFault s).k = s.k := rfl
@[simp] theorem setFault_rspStatus (s : State) : (setFault s).rspStatus = s.rspStatus := rfl
@[simp] theorem setFault_rspData (s : State) : (setFault s).rspData = s.rspData := rfl
@[simp] theorem setFault_seq (s : State) : (setFault s).seq = s.seq := rfl
@[simp] theorem setFault_is (s : State) : (setFault s).is = s.is := rfl
@[simp] theorem setFault_fault (s : State) : (setFault s).fault = true := rfl
@[simp] theorem setFault_rspValid (s : State) : (setFault s).rspValid = s.rspValid := rfl
@[simp] theorem setFault_trace (s : State) : (setFault s).trace = s.trace := rfl
@[simp] theorem setFault_delivered (s : State) : (setFault s).delivered = s.delivered := rfl
@[simp] theorem setFault_queue (s : State) : (setFault s).queue = s.queue := rfl
@[simp] theorem setFault_rspReady (s : State) : (setFault s).rspReady = s.rspReady := rfl
@[simp] theorem setFault_answers (s : State) : (setFault s).answers = s.answers := rfl
@[simp] theorem setFault_resetReq (s : State) : (setFault s).resetReq = s.resetReq := rfl
@[simp] theorem setFault_cfg (s : State) : (setFault s).cfg = s.cfg := rfl
@[simp] theorem setFault_draws (s : State) : (setFault s).draws = s.draws := rfl
@[simp] theorem setFault_pace (s : State) : (setFault s).pace = s.pace := rfl

/-! ## respond -/

@[simp] theorem respond_mode (st : Status) (d : Byte) (s : State) : (respond st d s).mode = s.mode := rfl
@[simp] theorem respond_lines (st : Status) (d : Byte) (s : State) : (respond st d s).lines = s.lines := rfl
@[simp] theorem respond_sample (st : Status) (d : Byte) (s : State) : (respond st d s).sample = s.sample := rfl
@[simp] theorem respond_hi (st : Status) (d : Byte) (s : State) : (respond st d s).hi = s.hi := rfl
@[simp] theorem respond_k (st : Status) (d : Byte) (s : State) : (respond st d s).k = s.k := rfl
@[simp] theorem respond_rspStatus (st : Status) (d : Byte) (s : State) : (respond st d s).rspStatus = st := rfl
@[simp] theorem respond_rspData (st : Status) (d : Byte) (s : State) : (respond st d s).rspData = d := rfl
@[simp] theorem respond_seq (st : Status) (d : Byte) (s : State) : (respond st d s).seq = .idle := rfl
@[simp] theorem respond_is (st : Status) (d : Byte) (s : State) : (respond st d s).is = s.is := rfl
@[simp] theorem respond_fault (st : Status) (d : Byte) (s : State) : (respond st d s).fault = s.fault := rfl
@[simp] theorem respond_rspValid (st : Status) (d : Byte) (s : State) : (respond st d s).rspValid = true := rfl
@[simp] theorem respond_trace (st : Status) (d : Byte) (s : State) : (respond st d s).trace = s.trace := rfl
@[simp] theorem respond_delivered (st : Status) (d : Byte) (s : State) : (respond st d s).delivered = s.delivered := rfl
@[simp] theorem respond_queue (st : Status) (d : Byte) (s : State) : (respond st d s).queue = s.queue := rfl
@[simp] theorem respond_rspReady (st : Status) (d : Byte) (s : State) : (respond st d s).rspReady = s.rspReady := rfl
@[simp] theorem respond_answers (st : Status) (d : Byte) (s : State) : (respond st d s).answers = s.answers := rfl
@[simp] theorem respond_resetReq (st : Status) (d : Byte) (s : State) : (respond st d s).resetReq = s.resetReq := rfl
@[simp] theorem respond_cfg (st : Status) (d : Byte) (s : State) : (respond st d s).cfg = s.cfg := rfl
@[simp] theorem respond_draws (st : Status) (d : Byte) (s : State) : (respond st d s).draws = s.draws := rfl
@[simp] theorem respond_pace (st : Status) (d : Byte) (s : State) : (respond st d s).pace = s.pace := rfl

/-! ## raiseContractFault -/

@[simp] theorem raiseContractFault_mode (s : State) : (raiseContractFault s).mode = s.mode := rfl
@[simp] theorem raiseContractFault_lines (s : State) : (raiseContractFault s).lines = s.lines := rfl
@[simp] theorem raiseContractFault_sample (s : State) : (raiseContractFault s).sample = s.sample := rfl
@[simp] theorem raiseContractFault_hi (s : State) : (raiseContractFault s).hi = s.hi := rfl
@[simp] theorem raiseContractFault_k (s : State) : (raiseContractFault s).k = s.k := rfl
@[simp] theorem raiseContractFault_rspStatus (s : State) : (raiseContractFault s).rspStatus = .contract := rfl
@[simp] theorem raiseContractFault_rspData (s : State) : (raiseContractFault s).rspData = 0x00 := rfl
@[simp] theorem raiseContractFault_seq (s : State) : (raiseContractFault s).seq = .idle := rfl
@[simp] theorem raiseContractFault_is (s : State) : (raiseContractFault s).is = s.is := rfl
@[simp] theorem raiseContractFault_fault (s : State) : (raiseContractFault s).fault = true := rfl
@[simp] theorem raiseContractFault_rspValid (s : State) : (raiseContractFault s).rspValid = true := rfl
@[simp] theorem raiseContractFault_trace (s : State) : (raiseContractFault s).trace = s.trace := rfl
@[simp] theorem raiseContractFault_delivered (s : State) : (raiseContractFault s).delivered = s.delivered := rfl
@[simp] theorem raiseContractFault_queue (s : State) : (raiseContractFault s).queue = s.queue := rfl
@[simp] theorem raiseContractFault_rspReady (s : State) : (raiseContractFault s).rspReady = s.rspReady := rfl
@[simp] theorem raiseContractFault_answers (s : State) : (raiseContractFault s).answers = s.answers := rfl
@[simp] theorem raiseContractFault_resetReq (s : State) : (raiseContractFault s).resetReq = s.resetReq := rfl
@[simp] theorem raiseContractFault_cfg (s : State) : (raiseContractFault s).cfg = s.cfg := rfl
@[simp] theorem raiseContractFault_draws (s : State) : (raiseContractFault s).draws = s.draws := rfl
@[simp] theorem raiseContractFault_pace (s : State) : (raiseContractFault s).pace = s.pace := rfl

/-! ## notInitStub -/

@[simp] theorem notInitStub_mode (s : State) : (notInitStub s).mode = s.mode := rfl
@[simp] theorem notInitStub_lines (s : State) : (notInitStub s).lines = s.lines := rfl
@[simp] theorem notInitStub_sample (s : State) : (notInitStub s).sample = s.sample := rfl
@[simp] theorem notInitStub_hi (s : State) : (notInitStub s).hi = s.hi := rfl
@[simp] theorem notInitStub_k (s : State) : (notInitStub s).k = s.k := rfl
@[simp] theorem notInitStub_rspStatus (s : State) : (notInitStub s).rspStatus = .notInit := rfl
@[simp] theorem notInitStub_rspData (s : State) : (notInitStub s).rspData = 0xFF := rfl
@[simp] theorem notInitStub_seq (s : State) : (notInitStub s).seq = .idle := rfl
@[simp] theorem notInitStub_is (s : State) : (notInitStub s).is = s.is := rfl
@[simp] theorem notInitStub_fault (s : State) : (notInitStub s).fault = true := rfl
@[simp] theorem notInitStub_rspValid (s : State) : (notInitStub s).rspValid = true := rfl
@[simp] theorem notInitStub_trace (s : State) : (notInitStub s).trace = s.trace := rfl
@[simp] theorem notInitStub_delivered (s : State) : (notInitStub s).delivered = s.delivered := rfl
@[simp] theorem notInitStub_queue (s : State) : (notInitStub s).queue = s.queue := rfl
@[simp] theorem notInitStub_rspReady (s : State) : (notInitStub s).rspReady = s.rspReady := rfl
@[simp] theorem notInitStub_answers (s : State) : (notInitStub s).answers = s.answers := rfl
@[simp] theorem notInitStub_resetReq (s : State) : (notInitStub s).resetReq = s.resetReq := rfl
@[simp] theorem notInitStub_cfg (s : State) : (notInitStub s).cfg = s.cfg := rfl
@[simp] theorem notInitStub_draws (s : State) : (notInitStub s).draws = s.draws := rfl
@[simp] theorem notInitStub_pace (s : State) : (notInitStub s).pace = s.pace := rfl

/-! ## forgetScratch -/

@[simp] theorem forgetScratch_mode (s : State) : (forgetScratch s).mode = s.mode := rfl
@[simp] theorem forgetScratch_lines (s : State) : (forgetScratch s).lines = s.lines := rfl
@[simp] theorem forgetScratch_sample (s : State) : (forgetScratch s).sample = Config.unspecifiedSample s.trace.length := rfl
@[simp] theorem forgetScratch_hi (s : State) : (forgetScratch s).hi = Config.unspecifiedHi s.trace.length := rfl
@[simp] theorem forgetScratch_k (s : State) : (forgetScratch s).k =
    Config.unspecifiedCount s.trace.length % (s.cfg.busyRetryMax + 1) := rfl
@[simp] theorem forgetScratch_rspStatus (s : State) : (forgetScratch s).rspStatus = s.rspStatus := rfl
@[simp] theorem forgetScratch_rspData (s : State) : (forgetScratch s).rspData = s.rspData := rfl
@[simp] theorem forgetScratch_seq (s : State) : (forgetScratch s).seq = s.seq := rfl
@[simp] theorem forgetScratch_is (s : State) : (forgetScratch s).is = s.is := rfl
@[simp] theorem forgetScratch_fault (s : State) : (forgetScratch s).fault = s.fault := rfl
@[simp] theorem forgetScratch_rspValid (s : State) : (forgetScratch s).rspValid = s.rspValid := rfl
@[simp] theorem forgetScratch_trace (s : State) : (forgetScratch s).trace = s.trace := rfl
@[simp] theorem forgetScratch_delivered (s : State) : (forgetScratch s).delivered = s.delivered := rfl
@[simp] theorem forgetScratch_queue (s : State) : (forgetScratch s).queue = s.queue := rfl
@[simp] theorem forgetScratch_rspReady (s : State) : (forgetScratch s).rspReady = s.rspReady := rfl
@[simp] theorem forgetScratch_answers (s : State) : (forgetScratch s).answers = s.answers := rfl
@[simp] theorem forgetScratch_resetReq (s : State) : (forgetScratch s).resetReq = s.resetReq := rfl
@[simp] theorem forgetScratch_cfg (s : State) : (forgetScratch s).cfg = s.cfg := rfl
@[simp] theorem forgetScratch_draws (s : State) : (forgetScratch s).draws = s.draws := rfl
@[simp] theorem forgetScratch_pace (s : State) : (forgetScratch s).pace = s.pace := rfl

/-- A forgotten K is in its range (10_state.md R28). -/
theorem forgetScratch_k_le (s : State) : (forgetScratch s).k ≤ s.cfg.busyRetryMax :=
  Nat.le_of_lt_succ (Nat.mod_lt _ (Nat.succ_pos _))

/-! ## takeResponse -/

@[simp] theorem takeResponse_mode (s : State) : (takeResponse s).mode = s.mode := rfl
@[simp] theorem takeResponse_lines (s : State) : (takeResponse s).lines = s.lines := rfl
@[simp] theorem takeResponse_sample (s : State) : (takeResponse s).sample = s.sample := rfl
@[simp] theorem takeResponse_hi (s : State) : (takeResponse s).hi = s.hi := rfl
@[simp] theorem takeResponse_k (s : State) : (takeResponse s).k = s.k := rfl
@[simp] theorem takeResponse_rspStatus (s : State) : (takeResponse s).rspStatus = s.rspStatus := rfl
@[simp] theorem takeResponse_rspData (s : State) : (takeResponse s).rspData = s.rspData := rfl
@[simp] theorem takeResponse_seq (s : State) : (takeResponse s).seq = s.seq := rfl
@[simp] theorem takeResponse_is (s : State) : (takeResponse s).is = s.is := rfl
@[simp] theorem takeResponse_fault (s : State) : (takeResponse s).fault = s.fault := rfl
@[simp] theorem takeResponse_rspValid (s : State) : (takeResponse s).rspValid = false := rfl
@[simp] theorem takeResponse_trace (s : State) : (takeResponse s).trace = s.trace := rfl
@[simp] theorem takeResponse_delivered (s : State) : (takeResponse s).delivered = s.delivered ++ [waiting s] := rfl
@[simp] theorem takeResponse_queue (s : State) : (takeResponse s).queue = s.queue := rfl
@[simp] theorem takeResponse_rspReady (s : State) : (takeResponse s).rspReady = s.rspReady := rfl
@[simp] theorem takeResponse_answers (s : State) : (takeResponse s).answers = s.answers := rfl
@[simp] theorem takeResponse_resetReq (s : State) : (takeResponse s).resetReq = s.resetReq := rfl
@[simp] theorem takeResponse_cfg (s : State) : (takeResponse s).cfg = s.cfg := rfl
@[simp] theorem takeResponse_draws (s : State) : (takeResponse s).draws = s.draws := rfl
@[simp] theorem takeResponse_pace (s : State) : (takeResponse s).pace = s.pace := rfl

/-! ## powerOnReset -/

@[simp] theorem powerOnReset_mode (s : State) : (powerOnReset s).mode = .undef := rfl
@[simp] theorem powerOnReset_lines (s : State) : (powerOnReset s).lines = Lines.floating := rfl
@[simp] theorem powerOnReset_sample (s : State) : (powerOnReset s).sample = 0 := rfl
@[simp] theorem powerOnReset_hi (s : State) : (powerOnReset s).hi = 0 := rfl
@[simp] theorem powerOnReset_k (s : State) : (powerOnReset s).k = 0 := rfl
@[simp] theorem powerOnReset_rspStatus (s : State) : (powerOnReset s).rspStatus = .ok := rfl
@[simp] theorem powerOnReset_rspData (s : State) : (powerOnReset s).rspData = 0 := rfl
@[simp] theorem powerOnReset_seq (s : State) : (powerOnReset s).seq = .idle := rfl
@[simp] theorem powerOnReset_is (s : State) : (powerOnReset s).is = .idle := rfl
@[simp] theorem powerOnReset_fault (s : State) : (powerOnReset s).fault = false := rfl
@[simp] theorem powerOnReset_rspValid (s : State) : (powerOnReset s).rspValid = false := rfl
@[simp] theorem powerOnReset_trace (s : State) : (powerOnReset s).trace = s.trace := rfl
@[simp] theorem powerOnReset_delivered (s : State) : (powerOnReset s).delivered = s.delivered := rfl
@[simp] theorem powerOnReset_queue (s : State) : (powerOnReset s).queue = s.queue := rfl
@[simp] theorem powerOnReset_rspReady (s : State) : (powerOnReset s).rspReady = s.rspReady := rfl
@[simp] theorem powerOnReset_answers (s : State) : (powerOnReset s).answers = s.answers := rfl
@[simp] theorem powerOnReset_resetReq (s : State) : (powerOnReset s).resetReq = false := rfl
@[simp] theorem powerOnReset_cfg (s : State) : (powerOnReset s).cfg = s.cfg := rfl
@[simp] theorem powerOnReset_draws (s : State) : (powerOnReset s).draws = s.draws := rfl
@[simp] theorem powerOnReset_pace (s : State) : (powerOnReset s).pace = s.pace := rfl

end Sys2Proof.Machine
end

