-- ==== Sys2Proof/Laws/Ops.lean ====
section
/-! SUPPORT. Everything the shared operations can do, said once: sequencing, one event, a list of events, the cycles. -/

namespace Sys2Proof.Machine

/-! ## Sequencing -/

@[simp] theorem andThen_next (s : State) (f : State → Result) : andThen (.next s) f = f s := rfl
@[simp] theorem andThen_fault (x : Fault) (f : State → Result) : andThen (.fault x) f = .fault x := rfl
@[simp] theorem andThen_refused (x : Refusal) (f : State → Result) : andThen (.refused x) f = .refused x := rfl

theorem andThen_assoc (r : Result) (f g : State → Result) :
    andThen (andThen r f) g = andThen r (fun s => andThen (f s) g) := by cases r <;> rfl

/-- A sequence that answers next did so in both parts. -/
theorem andThen_eq_next {r : Result} {f : State → Result} {t : State} (h : andThen r f = .next t) :
    ∃ s, r = .next s ∧ f s = .next t := by
  cases r with
  | next s => exact ⟨s, rfl, h⟩
  | fault x => cases h
  | refused x => cases h

/-! ## Answers -/

/-- The answers to come, of a list and a draw count. -/
def drawn (answers : List Byte) (draws : Nat) : Nat → Byte := fun i =>
  match answers[i]? with
  | some v => v
  | none => Config.lcdAnswer (draws + i)

/-- The answers to come depend on two fields alone. -/
theorem rdataAt_eq (s : State) : rdataAt s = drawn s.answers s.draws := rfl

theorem rdataAt_tail (s : State) (i : Nat) (t : State) (ha : t.answers = s.answers.tail) (hd : t.draws = s.draws + 1) :
    rdataAt t i = rdataAt s (i + 1) := by
  simp only [rdataAt, ha, hd, List.getElem?_tail]
  rw [show s.draws + 1 + i = s.draws + (i + 1) by omega]

/-! ## One event -/

/-- What an event leaves: the lines, the trace and the answers change, nothing else. -/
theorem perform_eq (op : PortOp) (s : State) :
    perform op s =
      { s with
        lines := performLines op s.lines
        trace := s.trace ++ [⟨op, answerOf op s⟩]
        answers := (drawAnswer op s).answers
        draws := (drawAnswer op s).draws } := by
  cases op <;> rfl

@[simp] theorem perform_mode (op : PortOp) (s : State) : (perform op s).mode = s.mode := by cases op <;> rfl
@[simp] theorem perform_lines (op : PortOp) (s : State) : (perform op s).lines = performLines op s.lines := by
  cases op <;> rfl
@[simp] theorem perform_sample (op : PortOp) (s : State) : (perform op s).sample = s.sample := by cases op <;> rfl
@[simp] theorem perform_hi (op : PortOp) (s : State) : (perform op s).hi = s.hi := by cases op <;> rfl
@[simp] theorem perform_k (op : PortOp) (s : State) : (perform op s).k = s.k := by cases op <;> rfl
@[simp] theorem perform_rspStatus (op : PortOp) (s : State) : (perform op s).rspStatus = s.rspStatus := by
  cases op <;> rfl
@[simp] theorem perform_rspData (op : PortOp) (s : State) : (perform op s).rspData = s.rspData := by cases op <;> rfl
@[simp] theorem perform_seq (op : PortOp) (s : State) : (perform op s).seq = s.seq := by cases op <;> rfl
@[simp] theorem perform_is (op : PortOp) (s : State) : (perform op s).is = s.is := by cases op <;> rfl
@[simp] theorem perform_fault (op : PortOp) (s : State) : (perform op s).fault = s.fault := by cases op <;> rfl
@[simp] theorem perform_rspValid (op : PortOp) (s : State) : (perform op s).rspValid = s.rspValid := by cases op <;> rfl
@[simp] theorem perform_trace (op : PortOp) (s : State) : (perform op s).trace = s.trace ++ [⟨op, answerOf op s⟩] := by
  cases op <;> rfl
@[simp] theorem perform_delivered (op : PortOp) (s : State) : (perform op s).delivered = s.delivered := by
  cases op <;> rfl
@[simp] theorem perform_queue (op : PortOp) (s : State) : (perform op s).queue = s.queue := by cases op <;> rfl
@[simp] theorem perform_rspReady (op : PortOp) (s : State) : (perform op s).rspReady = s.rspReady := by cases op <;> rfl
@[simp] theorem perform_resetReq (op : PortOp) (s : State) : (perform op s).resetReq = s.resetReq := by cases op <;> rfl
@[simp] theorem perform_cfg (op : PortOp) (s : State) : (perform op s).cfg = s.cfg := by cases op <;> rfl
@[simp] theorem perform_pace (op : PortOp) (s : State) : (perform op s).pace = s.pace := by cases op <;> rfl

/-- An event without violation is performed. -/
theorem emit_of_legal {op : PortOp} {s : State} (h : violation op s = none) : emit op s = .next (perform op s) := by
  simp [emit, h]

/-- Everything `emit` can answer next. -/
theorem emit_eq_next {op : PortOp} {s t : State} (h : emit op s = .next t) :
    violation op s = none ∧ t = perform op s := by
  unfold emit at h
  split at h
  · cases h
  · exact ⟨‹_›, by cases h; rfl⟩

/-- An emission is never refused. -/
theorem emit_ne_refused (op : PortOp) (s : State) (x : Refusal) : emit op s ≠ .refused x := by
  unfold emit
  split <;> simp

/-! ## Lists of events -/

@[simp] theorem emitAll_nil (s : State) : emitAll [] s = .next s := rfl
theorem emitAll_cons (op : PortOp) (ops : List PortOp) (s : State) :
    emitAll (op :: ops) s = andThen (emit op s) (emitAll ops) := rfl

theorem emitAll_append (xs ys : List PortOp) (s : State) :
    emitAll (xs ++ ys) s = andThen (emitAll xs s) (emitAll ys) := by
  induction xs generalizing s with
  | nil => rfl
  | cons op rest ih =>
    simp only [List.cons_append, emitAll_cons, andThen_assoc]
    cases emit op s <;> simp [ih]

/-- A list of events keeps MODE. -/
theorem emitAll_mode {ops : List PortOp} {s t : State} (h : emitAll ops s = .next t) : t.mode = s.mode := by
  induction ops generalizing s with
  | nil => cases h; rfl
  | cons op rest ih =>
    obtain ⟨u, hu, ht⟩ := andThen_eq_next h
    obtain ⟨-, rfl⟩ := emit_eq_next hu
    simpa using ih ht

/-! ## Write cycles: the whole effect -/

theorem regSelect_legal {s : State} (rs : Bool) (h : s.mode ≠ .undef) : violation (regSelect rs) s = none := by
  cases rs <;> simp [regSelect, violation, h]

/-- The level the register-select event leaves. -/
def rsLevel (rs : Bool) : Level := if rs then .high else .low

/-- W8 in M8 (R150): its end state, and nothing else. -/
theorem emitAll_w8 {s : State} (rs : Bool) (v : Byte) (h : s.mode = .m8) :
    emitAll (w8 rs v) s =
      .next { s with
        lines := { s.lines with rs := rsLevel rs, rw := .high, ce := .low, dir8 := .input, dout := .byte v }
        trace := s.trace ++ evs (w8 rs v) } := by
  cases rs <;>
    simp [w8, emitAll, emit, violation, needMode, perform, drawAnswer, performLines, answerOf, regSelect, rsLevel, h, evs,
      ev]

theorem lowNibble_zext8 (n : Nibble) : lowNibble (zext8 n) = n := by
  revert n; decide

theorem zext8_toNat_le (n : Nibble) : (zext8 n).toNat ≤ 15 := by
  revert n; decide

/-- W4 in M4 (R151). -/
theorem emitAll_w4 {s : State} (rs : Bool) (v : Byte) (h : s.mode = .m4) :
    emitAll (w4 rs v) s =
      .next { s with
        lines :=
          { s.lines with rs := rsLevel rs, rw := .high, ce := .low, dir4 := .input, dout := .nibble (lowNibble v) }
        trace := s.trace ++ evs (w4 rs v) } := by
  cases rs <;>
    simp [w4, emitAll, emit, violation, needMode, perform, drawAnswer, performLines, answerOf, regSelect, rsLevel, h, evs,
      ev, zext8_toNat_le, lowNibble_zext8]

/-- W4N in M4 (R152). -/
theorem emitAll_w4n {s : State} (rs : Bool) (n : Nibble) (h : s.mode = .m4) :
    emitAll (w4n rs n) s =
      .next { s with
        lines := { s.lines with rs := rsLevel rs, rw := .high, ce := .low, dir4 := .input, dout := .nibble n }
        trace := s.trace ++ evs (w4n rs n) } := by
  cases rs <;>
    simp [w4n, emitAll, emit, violation, needMode, perform, drawAnswer, performLines, answerOf, regSelect, rsLevel, h, evs,
      ev, zext8_toNat_le, lowNibble_zext8]

/-- A write command in M8 (R154, R155). -/
theorem writeCommand_eq8 {s : State} (rs : Bool) (v : Byte) (h : s.mode = .m8) :
    writeCommand rs v s =
      .next (respond .ok 0x00 { s with
        lines := { s.lines with rs := rsLevel rs, rw := .high, ce := .low, dir8 := .input, dout := .byte v }
        trace := s.trace ++ evs (w8 rs v) }) := by
  simp [writeCommand, inSession, h, writeCycle, writeEvents, emitAll_w8 _ _ h]

/-- A write command in M4 (R154, R155). -/
theorem writeCommand_eq4 {s : State} (rs : Bool) (v : Byte) (h : s.mode = .m4) :
    writeCommand rs v s =
      .next (respond .ok 0x00 { s with
        lines :=
          { s.lines with rs := rsLevel rs, rw := .high, ce := .low, dir4 := .input, dout := .nibble (lowNibble v) }
        trace := s.trace ++ evs (w4 rs v) }) := by
  simp [writeCommand, inSession, h, writeCycle, writeEvents, emitAll_w4 _ _ h]

/-! ## Read cycles: the whole effect -/

/-- R8 in M8 with the data lines inputs (R170). -/
theorem readCycle8_eq {s : State} (rs : Bool) (h : s.mode = .m8) (hd : s.lines.dir8 = .input) :
    readCycle8 rs s =
      .next { s with
        lines := { s.lines with rs := rsLevel rs, rw := .high, ce := .low }
        sample := rdata s
        answers := s.answers.tail
        draws := s.draws + 1
        trace := s.trace ++ (evs [regSelect rs, .setRw, .setCe] ++ [in8Event (rdata s), ev .clrCe]) } := by
  cases rs <;>
    simp [readCycle8, emitAll, emit, violation, needMode, perform, drawAnswer, performLines, answerOf, regSelect, rsLevel,
      h, hd, evs, ev, in8Event, rdata, rdataAt]

/-- One 4-bit sample in M4 with the data lines inputs (R171, R191). -/
theorem sampleNibbles_eq {s : State} (h : s.mode = .m4) (hd : s.lines.dir4 = .input) :
    sampleNibbles s =
      .next { s with
        lines := { s.lines with ce := .low }
        hi := lowNibble (rdataAt s 0)
        sample := joinNibbles (lowNibble (rdataAt s 0)) (lowNibble (rdataAt s 1))
        answers := s.answers.drop 2
        draws := s.draws + 2
        trace := s.trace ++ sampleTrace4 (rdataAt s 0) (rdataAt s 1) } := by
  have h2 : s.answers.tail.tail = s.answers.drop 2 := by cases s.answers <;> simp
  have h1 : s.answers.tail[0]? = s.answers[1]? := by simp
  simp [sampleNibbles, emitAll, emit, violation, needMode, perform, drawAnswer, performLines, answerOf, h, hd, ev,
    in4Event, rdata, rdataAt, sampleTrace4, h1, h2]

/-- R4 in M4 with the data lines inputs (R171). -/
theorem readCycle4_eq {s : State} (rs : Bool) (h : s.mode = .m4) (hd : s.lines.dir4 = .input) :
    readCycle4 rs s =
      .next { s with
        lines := { s.lines with rs := rsLevel rs, rw := .high, ce := .low }
        hi := lowNibble (rdataAt s 0)
        sample := joinNibbles (lowNibble (rdataAt s 0)) (lowNibble (rdataAt s 1))
        answers := s.answers.drop 2
        draws := s.draws + 2
        trace := s.trace ++ (evs [regSelect rs, .setRw] ++ sampleTrace4 (rdataAt s 0) (rdataAt s 1)) } := by
  have head : emitAll [regSelect rs, .setRw] s =
      .next { s with
        lines := { s.lines with rs := rsLevel rs, rw := .high }
        trace := s.trace ++ evs [regSelect rs, .setRw] } := by
    cases rs <;>
      simp [emitAll, emit, violation, perform, drawAnswer, performLines, answerOf, regSelect, rsLevel, h, evs, ev]
  simp only [readCycle4, head, andThen_next]
  rw [sampleNibbles_eq (by simpa using h) (by simpa using hd)]
  simp [rdataAt, List.append_assoc]

/-- A read command in M8 (R174, R175). -/
theorem readCommand_eq8 {s : State} (rs : Bool) (h : s.mode = .m8) (hd : s.lines.dir8 = .input) :
    readCommand rs s =
      .next (respond .ok (rdata s) { s with
        lines := { s.lines with rs := rsLevel rs, rw := .high, ce := .low }
        sample := rdata s
        answers := s.answers.tail
        draws := s.draws + 1
        trace := s.trace ++ (evs [regSelect rs, .setRw, .setCe] ++ [in8Event (rdata s), ev .clrCe]) }) := by
  simp [readCommand, inSession, readCycle, h, readCycle8_eq rs h hd]

/-- A read command in M4 (R174, R175). -/
theorem readCommand_eq4 {s : State} (rs : Bool) (h : s.mode = .m4) (hd : s.lines.dir4 = .input) :
    readCommand rs s =
      .next (respond .ok (joinNibbles (lowNibble (rdataAt s 0)) (lowNibble (rdataAt s 1))) { s with
        lines := { s.lines with rs := rsLevel rs, rw := .high, ce := .low }
        hi := lowNibble (rdataAt s 0)
        sample := joinNibbles (lowNibble (rdataAt s 0)) (lowNibble (rdataAt s 1))
        answers := s.answers.drop 2
        draws := s.draws + 2
        trace := s.trace ++ (evs [regSelect rs, .setRw] ++ sampleTrace4 (rdataAt s 0) (rdataAt s 1)) }) := by
  simp [readCommand, inSession, readCycle, h, readCycle4_eq rs h hd]

end Sys2Proof.Machine
end

