-- ==== Sys2Proof/Laws/Frames.lean ====
section
/-! SUPPORT. What no cycle, poll or initialization step can change, said once for all of them. -/

namespace Sys2Proof.Machine

/-- An event's width is the one a mode is bound to (20_memory.md R55). -/
def widthFits (m : Mode) (e : Event) : Prop :=
  (isWidth8 e.op = true → m = .m8) ∧ (isWidth4 e.op = true → m = .m4)

/-- What bus activity inside a command keeps: it adds events of the bound width to the trace, and of the rest it can write
the lines, SAMPLE, HI, K, IS and the answers alone. -/
structure Kept (s t : State) : Prop where
  mode : t.mode = s.mode
  rspStatus : t.rspStatus = s.rspStatus
  rspData : t.rspData = s.rspData
  seq : t.seq = s.seq
  fault : t.fault = s.fault
  rspValid : t.rspValid = s.rspValid
  delivered : t.delivered = s.delivered
  queue : t.queue = s.queue
  rspReady : t.rspReady = s.rspReady
  resetReq : t.resetReq = s.resetReq
  cfg : t.cfg = s.cfg
  pace : t.pace = s.pace
  trace : ∃ es, t.trace = s.trace ++ es ∧ ∀ e ∈ es, widthFits s.mode e

theorem Kept.refl (s : State) : Kept s s :=
  ⟨rfl, rfl, rfl, rfl, rfl, rfl, rfl, rfl, rfl, rfl, rfl, rfl, [], by simp⟩

theorem Kept.trans {s t u : State} (a : Kept s t) (b : Kept t u) : Kept s u := by
  obtain ⟨xs, hx, wx⟩ := a.trace
  obtain ⟨ys, hy, wy⟩ := b.trace
  refine ⟨b.mode.trans a.mode, b.rspStatus.trans a.rspStatus, b.rspData.trans a.rspData, b.seq.trans a.seq,
    b.fault.trans a.fault, b.rspValid.trans a.rspValid, b.delivered.trans a.delivered, b.queue.trans a.queue,
    b.rspReady.trans a.rspReady, b.resetReq.trans a.resetReq, b.cfg.trans a.cfg, b.pace.trans a.pace, xs ++ ys, ?_, ?_⟩
  · rw [hy, hx, List.append_assoc]
  · intro e he
    rcases List.mem_append.1 he with h | h
    · exact wx e h
    · have := wy e h
      rwa [a.mode] at this

/-- A legal event is of the bound width. -/
theorem widthFits_of_legal {op : PortOp} {s : State} {a : Option Byte} (h : violation op s = none) :
    widthFits s.mode ⟨op, a⟩ := by
  cases op <;> cases hm : s.mode <;> simp_all [widthFits, isWidth8, isWidth4, violation, needMode]

theorem emit_kept {op : PortOp} {s t : State} (h : emit op s = .next t) : Kept s t := by
  obtain ⟨hv, rfl⟩ := emit_eq_next h
  refine ⟨by simp, by simp, by simp, by simp, by simp, by simp, by simp, by simp, by simp, by simp, by simp, by simp,
    [⟨op, answerOf op s⟩], by simp, ?_⟩
  intro e he
  simp only [List.mem_singleton] at he
  subst he
  exact widthFits_of_legal hv

theorem andThen_kept {r : Result} {f : State → Result} {s t : State} (h : andThen r f = .next t)
    (hr : ∀ u, r = .next u → Kept s u) (hf : ∀ u, Kept s u → f u = .next t → Kept s t) : Kept s t := by
  obtain ⟨u, hu, ht⟩ := andThen_eq_next h
  exact hf u (hr u hu) ht

theorem emitAll_kept {ops : List PortOp} {s t : State} (h : emitAll ops s = .next t) : Kept s t := by
  induction ops generalizing s with
  | nil => cases h; exact .refl _
  | cons op rest ih => exact andThen_kept h (fun u hu => emit_kept hu) fun u hu ht => hu.trans (ih ht)

/-- Writing SAMPLE, HI, K or IS is bus activity too. -/
theorem Kept.regs {s t : State} (h : Kept s t) (sample : Byte) (hi : Nibble) (k : Nat) (is : InitState) :
    Kept s { t with sample := sample, hi := hi, k := k, is := is } :=
  ⟨h.mode, h.rspStatus, h.rspData, h.seq, h.fault, h.rspValid, h.delivered, h.queue, h.rspReady, h.resetReq, h.cfg, h.pace,
    h.trace⟩

theorem writeCycle_kept {rs : Bool} {v : Byte} {s t : State} (h : writeCycle rs v s = .next t) : Kept s t := emitAll_kept h

theorem sampleNibbles_kept {s t : State} (h : sampleNibbles s = .next t) : Kept s t := by
  obtain ⟨u, hu, h⟩ := andThen_eq_next h
  obtain ⟨w, hw, h⟩ := andThen_eq_next h
  obtain ⟨x, hx, h⟩ := andThen_eq_next h
  cases h
  have a := (emit_kept hu).regs u.sample (lowNibble (rdata u)) u.k u.is
  exact ((a.trans (emitAll_kept hw)).trans (emitAll_kept hx)).regs _ _ _ _

theorem readCycle_kept {rs : Bool} {s t : State} (h : readCycle rs s = .next t) : Kept s t := by
  unfold readCycle at h
  split at h
  · obtain ⟨u, hu, h⟩ := andThen_eq_next h
    obtain ⟨w, hw, h⟩ := andThen_eq_next h
    cases h
    exact ((emitAll_kept hu).trans (emitAll_kept hw)).regs _ _ _ _
  · obtain ⟨u, hu, h⟩ := andThen_eq_next h
    exact (emitAll_kept hu).trans (sampleNibbles_kept h)

theorem pollLoop8_kept {left : Nat} {s t : State} (h : pollLoop8 left s = .next t) : Kept s t := by
  induction left generalizing s with
  | zero => cases h
  | succ left ih =>
    obtain ⟨u, hu, h⟩ := andThen_eq_next h
    have hk : Kept s u := by
      obtain ⟨w, hw, hu⟩ := andThen_eq_next hu
      cases hu
      exact (emit_kept hw).regs _ _ _ _
    split at h
    · exact hk.trans (emit_kept h)
    · exact hk.trans (ih h)

theorem pollLoop4_kept {left : Nat} {s t : State} (h : pollLoop4 left s = .next t) : Kept s t := by
  induction left generalizing s with
  | zero => cases h
  | succ left ih =>
    obtain ⟨u, hu, h⟩ := andThen_eq_next h
    have hk := (sampleNibbles_kept hu).regs u.sample u.hi (u.k + 1) u.is
    simp only at h
    split at h
    · cases h
      exact hk
    · exact hk.trans (ih h)

theorem pollCycle_kept {s t : State} (h : pollCycle s = .next t) : Kept s t := by
  unfold pollCycle at h
  split at h
  · obtain ⟨u, hu, h⟩ := andThen_eq_next h
    exact ((emitAll_kept hu).regs u.sample u.hi 0 u.is).trans (pollLoop8_kept h)
  · obtain ⟨u, hu, h⟩ := andThen_eq_next h
    exact ((emitAll_kept hu).regs u.sample u.hi 0 u.is).trans (pollLoop4_kept h)

/-! ## Controller initialization -/

theorem atState_kept {x : InitState} {s t : State} {part : State → Result} (h : atState x s part = .next t)
    (hp : ∀ u v, part u = .next v → Kept u v) : Kept s t :=
  ((Kept.refl s).regs s.sample s.hi s.k x).trans (hp _ _ h)

theorem initFunctionSets_kept {s t : State} (h : initFunctionSets s = .next t) : Kept s t := by
  obtain ⟨a, ha, h⟩ := andThen_eq_next h
  obtain ⟨b, hb, h⟩ := andThen_eq_next h
  obtain ⟨c, hc, h⟩ := andThen_eq_next h
  have w : ∀ {x y : State} {z : InitState},
      atState z x (fun s => writeCycle false (funcsetCode s) s) = .next y → Kept x y := fun h =>
    atState_kept h fun _ _ => writeCycle_kept
  exact (((w ha).trans (atState_kept hb fun _ _ => emit_kept)).trans (w hc)).trans (atState_kept h fun _ _ => emit_kept)

/-- INIT_CTRL ends with a poll's result (R216). -/
theorem finishInitCtrl_answered (s : State) : ∃ u, Kept s u ∧ u.sample = s.sample ∧ finishInitCtrl s = respond (pollStatus u) 0x00 u :=
  ⟨{ s with is := .idle }, (Kept.refl s).regs _ _ _ _, rfl, rfl⟩

theorem checkedWrite_polled {x y : InitState} {v : Byte} {next : State → Result} {s t : State}
    (h : checkedWrite x y v next s = .next t)
    (hn : ∀ u, Kept s u → next u = .next t → ∃ w, Kept s w ∧ t = respond (pollStatus w) 0x00 w) :
    ∃ w, Kept s w ∧ t = respond (pollStatus w) 0x00 w := by
  obtain ⟨a, ha, h⟩ := andThen_eq_next h
  obtain ⟨b, hb, h⟩ := andThen_eq_next h
  have hk : Kept s b :=
    (atState_kept ha fun _ _ => writeCycle_kept).trans (atState_kept hb fun _ _ => pollCycle_kept)
  split at h
  · cases h
    obtain ⟨w, hw, -, e⟩ := finishInitCtrl_answered b
    exact ⟨w, hk.trans hw, e⟩
  · exact hn b hk h

/-- The tail ends with a poll's result (R213, R216, R217). -/
theorem initTail_polled {s t : State} (h : initTail s = .next t) : ∃ w, Kept s w ∧ t = respond (pollStatus w) 0x00 w := by
  refine checkedWrite_polled h fun a ha h => ?_
  obtain ⟨b, hb, e⟩ := checkedWrite_polled (s := a) h fun b hb h =>
    (checkedWrite_polled (s := b) h fun c hc h => by
      cases h
      obtain ⟨w, hw, -, e⟩ := finishInitCtrl_answered c
      exact ⟨w, hc.trans hw, e⟩).imp fun w hw => ⟨hb.trans hw.1, hw.2⟩
  exact ⟨b, ha.trans hb, e⟩

/-- INIT_CTRL in a session: bus activity, then the last poll's result (R216). -/
theorem execInitCtrl_polled {arg : Byte} {s t : State} (hm : s.mode ≠ .undef) (h : execInitCtrl arg s = .next t) :
    ∃ w, Kept s w ∧ t = respond (pollStatus w) 0x00 w := by
  simp only [execInitCtrl, inSession, hm, if_false] at h
  have tail : ∀ u, andThen (initFunctionSets u) initTail = .next t → ∃ w, Kept u w ∧ t = respond (pollStatus w) 0x00 w := by
    intro u hu
    obtain ⟨a, ha, hu⟩ := andThen_eq_next hu
    obtain ⟨w, hw, e⟩ := initTail_polled hu
    exact ⟨w, (initFunctionSets_kept ha).trans hw, e⟩
  split at h
  · exact tail s h
  · obtain ⟨a, ha, h⟩ := andThen_eq_next h
    obtain ⟨w, hw, e⟩ := tail a h
    exact ⟨w, (atState_kept ha fun _ _ => emitAll_kept).trans hw, e⟩

/-! ## Commands -/

/-- Outside a session every command of the operation set is the stub (R131). -/
theorem inSession_undef {s : State} {r : Result} (h : s.mode = .undef) : inSession s r = .next (notInitStub s) := by
  simp [inSession, h]

theorem inSession_bound {s : State} {r : Result} (h : s.mode ≠ .undef) : inSession s r = r := by
  simp [inSession, h]

theorem writeCommand_kept {rs : Bool} {v : Byte} {s t : State} (hm : s.mode ≠ .undef) (h : writeCommand rs v s = .next t) :
    ∃ u, Kept s u ∧ t = respond .ok 0x00 u := by
  rw [writeCommand, inSession_bound hm] at h
  obtain ⟨u, hu, h⟩ := andThen_eq_next h
  cases h
  exact ⟨u, writeCycle_kept hu, rfl⟩

theorem readCommand_kept {rs : Bool} {s t : State} (hm : s.mode ≠ .undef) (h : readCommand rs s = .next t) :
    ∃ u, Kept s u ∧ t = respond .ok u.sample u := by
  rw [readCommand, inSession_bound hm] at h
  obtain ⟨u, hu, h⟩ := andThen_eq_next h
  cases h
  exact ⟨u, readCycle_kept hu, rfl⟩

theorem pollCommand_kept {s t : State} (hm : s.mode ≠ .undef) (h : pollCommand s = .next t) :
    ∃ u, Kept s u ∧ t = respond (pollStatus u) 0x00 u := by
  rw [pollCommand, inSession_bound hm] at h
  obtain ⟨u, hu, h⟩ := andThen_eq_next h
  cases h
  exact ⟨u, pollCycle_kept hu, rfl⟩

end Sys2Proof.Machine
end

