-- ==== Sys2Proof/Laws/Poll.lean ====
section
/-! SUPPORT. The polls: how samples are counted (44_busy_poll.md R193), and everything a poll does. -/

namespace Sys2Proof.Machine

/-! ## Counting samples -/

theorem sampleCount_le (n : Nat) (f : Nat → Byte) : sampleCount n f ≤ n := by
  induction n generalizing f with
  | zero => simp [sampleCount]
  | succ n ih =>
    unfold sampleCount
    split
    · exact Nat.succ_le_succ (ih _)
    · omega

theorem sampleCount_pos {n : Nat} (hn : 1 ≤ n) (f : Nat → Byte) : 1 ≤ sampleCount n f := by
  cases n with
  | zero => omega
  | succ n =>
    unfold sampleCount
    split <;> omega

/-- Every sample before the last one taken is busy. -/
theorem busy_before_last {n : Nat} {f : Nat → Byte} {i : Nat} (h : i + 1 < sampleCount n f) : busy (f i) = true := by
  induction n generalizing f i with
  | zero => simp [sampleCount] at h
  | succ n ih =>
    unfold sampleCount at h
    split at h
    · cases i with
      | zero => assumption
      | succ i => exact ih (f := fun i => f (i + 1)) (by omega)
    · omega

/-- The last sample taken is ready exactly when the poll ends OK. -/
theorem busy_last {n : Nat} (hn : 1 ≤ n) (f : Nat → Byte) : busy (f (sampleCount n f - 1)) = !pollReady n f := by
  induction n generalizing f with
  | zero => omega
  | succ n ih =>
    unfold sampleCount pollReady
    by_cases hb : busy (f 0) = true
    · simp only [hb, if_true, Bool.not_true, Bool.false_or, Nat.add_sub_cancel]
      cases n with
      | zero => simpa [sampleCount, pollReady] using hb
      | succ n =>
        have := ih (by omega) (fun i => f (i + 1))
        have hpos := sampleCount_pos (n := n + 1) (by omega) (fun i => f (i + 1))
        rwa [Nat.sub_add_cancel hpos] at this
    · simp [hb]

/-- The count, from the first ready sample (R193). -/
theorem sampleCount_of_first_ready {n k : Nat} {f : Nat → Byte} (hk : k < n) (hready : busy (f k) = false)
    (hbusy : ∀ i, i < k → busy (f i) = true) : sampleCount n f = k + 1 ∧ pollReady n f = true := by
  induction k generalizing n f with
  | zero =>
    cases n with
    | zero => omega
    | succ n => simp [sampleCount, pollReady, hready]
  | succ k ih =>
    cases n with
    | zero => omega
    | succ n =>
      have h0 := hbusy 0 (by omega)
      have := ih (n := n) (f := fun i => f (i + 1)) (by omega) hready (fun i hi => hbusy (i + 1) (by omega))
      simp [sampleCount, pollReady, h0, this]

/-- The count when every sample is busy (R193). -/
theorem sampleCount_of_all_busy {n : Nat} {f : Nat → Byte} (hbusy : ∀ i, i < n → busy (f i) = true) :
    sampleCount n f = n ∧ pollReady n f = false := by
  induction n generalizing f with
  | zero => simp [sampleCount, pollReady]
  | succ n ih =>
    have h0 := hbusy 0 (by omega)
    have := ih (f := fun i => f (i + 1)) (fun i hi => hbusy (i + 1) (by omega))
    simp [sampleCount, pollReady, h0, this]

theorem sampleCount_of_not_ready {n : Nat} {f : Nat → Byte} (h : pollReady n f = false) : sampleCount n f = n := by
  induction n generalizing f with
  | zero => rfl
  | succ n ih =>
    simp only [pollReady, Bool.or_eq_false_iff, Bool.not_eq_false'] at h
    simp [sampleCount, h.1, ih h.2]

/-- The count and the outcome depend on bit 7 of the samples alone (R192). -/
theorem sampleCount_congr {n : Nat} {f g : Nat → Byte} (h : ∀ i, busy (f i) = busy (g i)) :
    sampleCount n f = sampleCount n g ∧ pollReady n f = pollReady n g := by
  induction n generalizing f g with
  | zero => simp [sampleCount, pollReady]
  | succ n ih =>
    have := ih (f := fun i => f (i + 1)) (g := fun i => g (i + 1)) (fun i => h (i + 1))
    simp [sampleCount, pollReady, h 0, this.1, this.2]

/-- Bit 7 of a nibble pair is bit 3 of its high nibble (R192). -/
theorem busy_pairByte (f : Nat → Byte) (i : Nat) : busy (pairByte f i) = (f (2 * i)).getLsbD 3 := by
  have : ∀ x y : Nibble, busy (joinNibbles x y) = x.getLsbD 3 := by decide
  rw [pairByte, this]
  simp [lowNibble]

/-! ## The 8-bit poll -/

/-- The state after c samples of an 8-bit poll and its CLR_CE. -/
def after8 (c : Nat) (s : State) : State :=
  { s with
    lines := { s.lines with ce := .low }
    sample := rdataAt s (c - 1)
    k := s.k + c
    answers := s.answers.drop c
    draws := s.draws + c
    trace := s.trace ++ ((List.range c).map (fun i => in8Event (rdataAt s i)) ++ [ev .clrCe]) }

/-- The state after one 8-bit sample. -/
def sampled8 (s : State) : State :=
  { s with
    sample := rdataAt s 0
    k := s.k + 1
    answers := s.answers.tail
    draws := s.draws + 1
    trace := s.trace ++ [in8Event (rdataAt s 0)] }

theorem rdataAt_sampled8 (s : State) : rdataAt (sampled8 s) = fun i => rdataAt s (i + 1) :=
  funext fun i => rdataAt_tail s i (sampled8 s) rfl rfl

theorem sampleByte_eq {s : State} (h : s.mode = .m8) (hd : s.lines.dir8 = .input) :
    sampleByte s = .next (sampled8 s) := by
  simp [sampled8, rdata, sampleByte, emit, violation, needMode, perform, drawAnswer, performLines, answerOf, h, hd, in8Event]

/-- The loop of POLL8 takes `sampleCount` samples, then clears CE (R190, R193). -/
theorem pollLoop8_eq {left : Nat} {s : State} (hl : 1 ≤ left) (h : s.mode = .m8) (hd : s.lines.dir8 = .input)
    (hk : s.k + left = s.cfg.busyRetryMax) :
    pollLoop8 left s = .next (after8 (sampleCount left (rdataAt s)) s) := by
  induction left generalizing s with
  | zero => omega
  | succ left ih =>
    unfold pollLoop8
    rw [sampleByte_eq h hd]
    simp only [andThen_next]
    by_cases hb : busy (rdataAt s 0) = true
    · by_cases hz : left = 0
      · subst hz
        simp [sampled8, pollOver, hb, hk, sampleCount, after8, emit, violation, perform, drawAnswer, performLines,
          answerOf, h, ev]
      · have more : pollOver (sampled8 s) = false := by
          have hne : s.k + 1 ≠ s.cfg.busyRetryMax := by omega
          simp [sampled8, pollOver, hb, hne]
        rw [more, if_neg (by simp), ih (s := sampled8 s) (by omega) h hd (by simp [sampled8]; omega), rdataAt_sampled8]
        have hpos := sampleCount_pos (n := left) (by omega) (fun i => rdataAt s (i + 1))
        obtain ⟨c, hc⟩ : ∃ c, sampleCount left (fun i => rdataAt s (i + 1)) = c + 1 := ⟨_, (Nat.sub_add_cancel hpos).symm⟩
        simp only [sampleCount, hb, if_true, hc, after8, rdataAt_sampled8]
        simp [sampled8, Nat.add_comm, Nat.add_left_comm, List.range_succ_eq_map, Function.comp_def]
    · have isOver : pollOver (sampled8 s) = true := by simp [sampled8, pollOver, hb]
      rw [isOver]
      simp [sampled8, hb, sampleCount, after8, emit, violation, perform, drawAnswer, performLines, answerOf, h, ev]

/-- POLL8() in M8 with the data lines inputs (R190, R193). -/
theorem poll8_eq {s : State} (hN : 1 ≤ s.cfg.busyRetryMax) (h : s.mode = .m8) (hd : s.lines.dir8 = .input) :
    poll8 s =
      .next { s with
        lines := { s.lines with rs := .low, rw := .high, ce := .low }
        sample := rdataAt s (sampleCount s.cfg.busyRetryMax (rdataAt s) - 1)
        k := sampleCount s.cfg.busyRetryMax (rdataAt s)
        answers := s.answers.drop (sampleCount s.cfg.busyRetryMax (rdataAt s))
        draws := s.draws + sampleCount s.cfg.busyRetryMax (rdataAt s)
        trace := s.trace ++ pollTrace8 (sampleCount s.cfg.busyRetryMax (rdataAt s)) (rdataAt s) } := by
  have head : emitAll [.clrRs, .setRw, .setCe] s =
      .next { s with
        lines := { s.lines with rs := .low, rw := .high, ce := .high }
        trace := s.trace ++ evs [.clrRs, .setRw, .setCe] } := by
    simp [emitAll, emit, violation, perform, drawAnswer, performLines, answerOf, h, evs, ev]
  simp only [poll8, head, andThen_next]
  rw [pollLoop8_eq hN (by simpa using h) (by simpa using hd) (by simp)]
  have same : ∀ t : State, t.answers = s.answers → t.draws = s.draws → rdataAt t = rdataAt s := fun t ha hd => by
    funext i; simp [rdataAt, ha, hd]
  simp [after8, pollTrace8, same, List.append_assoc]

/-- WAIT_BUSY in M8 (R194). -/
theorem pollCommand_eq8 {s : State} (hN : 1 ≤ s.cfg.busyRetryMax) (h : s.mode = .m8) (hd : s.lines.dir8 = .input) :
    pollCommand s =
      .next (respond (if pollReady s.cfg.busyRetryMax (rdataAt s) then .ok else .timeout) 0x00 { s with
        lines := { s.lines with rs := .low, rw := .high, ce := .low }
        sample := rdataAt s (sampleCount s.cfg.busyRetryMax (rdataAt s) - 1)
        k := sampleCount s.cfg.busyRetryMax (rdataAt s)
        answers := s.answers.drop (sampleCount s.cfg.busyRetryMax (rdataAt s))
        draws := s.draws + sampleCount s.cfg.busyRetryMax (rdataAt s)
        trace := s.trace ++ pollTrace8 (sampleCount s.cfg.busyRetryMax (rdataAt s)) (rdataAt s) }) := by
  simp only [pollCommand, inSession, h, pollCycle, poll8_eq hN h hd, andThen_next, pollStatus, busy_last hN (rdataAt s)]
  cases pollReady s.cfg.busyRetryMax (rdataAt s) <;> simp

/-! ## The 4-bit poll -/

/-- The state after c samples of a 4-bit poll. -/
def after4 (c : Nat) (s : State) : State :=
  { s with
    lines := { s.lines with ce := .low }
    hi := lowNibble (rdataAt s (2 * (c - 1)))
    sample := pairByte (rdataAt s) (c - 1)
    k := s.k + c
    answers := s.answers.drop (2 * c)
    draws := s.draws + 2 * c
    trace := s.trace ++ (List.range c).flatMap (fun i => sampleTrace4 (rdataAt s (2 * i)) (rdataAt s (2 * i + 1))) }

/-- The state after one 4-bit sample. -/
def sampled4 (s : State) : State :=
  { s with
    lines := { s.lines with ce := .low }
    hi := lowNibble (rdataAt s 0)
    sample := pairByte (rdataAt s) 0
    k := s.k + 1
    answers := s.answers.drop 2
    draws := s.draws + 2
    trace := s.trace ++ sampleTrace4 (rdataAt s 0) (rdataAt s 1) }

theorem rdataAt_drop2 (s : State) (i : Nat) (t : State) (ha : t.answers = s.answers.drop 2) (hd : t.draws = s.draws + 2) :
    rdataAt t i = rdataAt s (i + 2) := by
  simp only [rdataAt, ha, hd, List.getElem?_drop]
  rw [show s.draws + 2 + i = s.draws + (i + 2) by omega, Nat.add_comm 2 i]

theorem rdataAt_sampled4 (s : State) : rdataAt (sampled4 s) = fun i => rdataAt s (i + 2) :=
  funext fun i => rdataAt_drop2 s i (sampled4 s) rfl rfl

theorem pairByte_shift (f : Nat → Byte) : pairByte (fun i => f (i + 2)) = fun i => pairByte f (i + 1) := by
  funext i
  simp [pairByte, Nat.mul_add, Nat.add_right_comm]

/-- The loop of POLL4 takes `sampleCount` samples (R191, R193). -/
theorem pollLoop4_eq {left : Nat} {s : State} (hl : 1 ≤ left) (h : s.mode = .m4) (hd : s.lines.dir4 = .input)
    (hk : s.k + left = s.cfg.busyRetryMax) :
    pollLoop4 left s = .next (after4 (sampleCount left (pairByte (rdataAt s))) s) := by
  induction left generalizing s with
  | zero => omega
  | succ left ih =>
    unfold pollLoop4
    rw [sampleNibbles_eq h hd]
    simp only [andThen_next]
    change (if pollOver (sampled4 s) then _ else pollLoop4 left (sampled4 s)) = _
    by_cases hb : busy (pairByte (rdataAt s) 0) = true
    · by_cases hz : left = 0
      · subst hz
        have isOver : pollOver (sampled4 s) = true := by simp [sampled4, pollOver, hk]
        rw [isOver, if_pos rfl]
        simp [hb, sampleCount, after4, pairByte]
      · have more : pollOver (sampled4 s) = false := by
          have hne : s.k + 1 ≠ s.cfg.busyRetryMax := by omega
          simp [sampled4, pollOver, hb, hne]
        rw [more, if_neg (by simp), ih (s := sampled4 s) (by omega) h hd (by simp [sampled4]; omega), rdataAt_sampled4, pairByte_shift]
        have hpos := sampleCount_pos (n := left) (by omega) (fun i => pairByte (rdataAt s) (i + 1))
        obtain ⟨c, hc⟩ : ∃ c, sampleCount left (fun i => pairByte (rdataAt s) (i + 1)) = c + 1 :=
          ⟨_, (Nat.sub_add_cancel hpos).symm⟩
        simp only [sampleCount, hb, if_true, hc, after4, rdataAt_sampled4, pairByte_shift]
        simp [sampled4, Nat.mul_add, Nat.add_assoc, Nat.add_comm, Nat.add_left_comm, List.range_succ_eq_map,
          List.flatMap_map, Function.comp_def]
        have e : ∀ a : Nat, 2 + (2 + 2 * a) = 2 * a + 4 := fun a => by omega
        simp [e]
    · have isOver : pollOver (sampled4 s) = true := by simp [sampled4, pollOver, hb]
      rw [isOver, if_pos rfl]
      simp only [sampleCount, hb, after4]
      simp [pairByte]

/-- POLL4() in M4 with the data lines inputs (R191, R193). -/
theorem poll4_eq {s : State} (hN : 1 ≤ s.cfg.busyRetryMax) (h : s.mode = .m4) (hd : s.lines.dir4 = .input) :
    poll4 s =
      .next { s with
        lines := { s.lines with rs := .low, rw := .high, ce := .low }
        hi := lowNibble (rdataAt s (2 * (sampleCount s.cfg.busyRetryMax (pairByte (rdataAt s)) - 1)))
        sample := pairByte (rdataAt s) (sampleCount s.cfg.busyRetryMax (pairByte (rdataAt s)) - 1)
        k := sampleCount s.cfg.busyRetryMax (pairByte (rdataAt s))
        answers := s.answers.drop (2 * sampleCount s.cfg.busyRetryMax (pairByte (rdataAt s)))
        draws := s.draws + 2 * sampleCount s.cfg.busyRetryMax (pairByte (rdataAt s))
        trace := s.trace ++ pollTrace4 (sampleCount s.cfg.busyRetryMax (pairByte (rdataAt s))) (rdataAt s) } := by
  have head : emitAll [.clrRs, .setRw] s =
      .next { s with
        lines := { s.lines with rs := .low, rw := .high }
        trace := s.trace ++ evs [.clrRs, .setRw] } := by
    simp [emitAll, emit, violation, perform, drawAnswer, performLines, answerOf, h, evs, ev]
  simp only [poll4, head, andThen_next]
  rw [pollLoop4_eq hN (by simpa using h) (by simpa using hd) (by simp)]
  have same : ∀ t : State, t.answers = s.answers → t.draws = s.draws → rdataAt t = rdataAt s := fun t ha hd => by
    funext i; simp [rdataAt, ha, hd]
  simp [after4, pollTrace4, same, List.append_assoc]

/-- WAIT_BUSY in M4 (R194). -/
theorem pollCommand_eq4 {s : State} (hN : 1 ≤ s.cfg.busyRetryMax) (h : s.mode = .m4) (hd : s.lines.dir4 = .input) :
    pollCommand s =
      .next (respond (if pollReady s.cfg.busyRetryMax (pairByte (rdataAt s)) then .ok else .timeout) 0x00 { s with
        lines := { s.lines with rs := .low, rw := .high, ce := .low }
        hi := lowNibble (rdataAt s (2 * (sampleCount s.cfg.busyRetryMax (pairByte (rdataAt s)) - 1)))
        sample := pairByte (rdataAt s) (sampleCount s.cfg.busyRetryMax (pairByte (rdataAt s)) - 1)
        k := sampleCount s.cfg.busyRetryMax (pairByte (rdataAt s))
        answers := s.answers.drop (2 * sampleCount s.cfg.busyRetryMax (pairByte (rdataAt s)))
        draws := s.draws + 2 * sampleCount s.cfg.busyRetryMax (pairByte (rdataAt s))
        trace := s.trace ++ pollTrace4 (sampleCount s.cfg.busyRetryMax (pairByte (rdataAt s))) (rdataAt s) }) := by
  simp only [pollCommand, inSession, h, pollCycle, poll4_eq hN h hd, andThen_next, pollStatus,
    busy_last hN (pairByte (rdataAt s))]
  cases pollReady s.cfg.busyRetryMax (pairByte (rdataAt s)) <;> simp

end Sys2Proof.Machine
end

