-- ==== Sys2Proof/Laws/InitCtrl.lean ====
section
/-! SUPPORT. Everything the controller initialization does (45_init_fsm.md), one lemma per part and one per width. -/

namespace Sys2Proof.Machine

/-- The state after a write of v, its step of the FSM, and the poll that follows, in M8. -/
def polled8 (x : InitState) (v : Byte) (s : State) : State :=
  { s with
    is := x
    lines := { s.lines with rs := .low, rw := .high, ce := .low, dir8 := .input, dout := .byte v }
    sample := rdataAt s (sampleCount s.cfg.busyRetryMax (rdataAt s) - 1)
    k := sampleCount s.cfg.busyRetryMax (rdataAt s)
    answers := s.answers.drop (sampleCount s.cfg.busyRetryMax (rdataAt s))
    draws := s.draws + sampleCount s.cfg.busyRetryMax (rdataAt s)
    trace := s.trace ++ (evs (w8 false v) ++ pollTrace8 (sampleCount s.cfg.busyRetryMax (rdataAt s)) (rdataAt s)) }

/-- The answers after c of them are used up. -/
theorem rdataAt_drop (s t : State) (c : Nat) (ha : t.answers = s.answers.drop c) (hd : t.draws = s.draws + c) :
    rdataAt t = fun i => rdataAt s (c + i) := by
  funext i
  simp only [rdataAt, ha, hd, List.getElem?_drop, Nat.add_assoc]

theorem pollStatus_last {s : State} {n : Nat} {f : Nat → Byte} (hn : 1 ≤ n) (h : s.sample = f (sampleCount n f - 1)) :
    pollStatus s = if pollReady n f then .ok else .timeout := by
  simp only [pollStatus, h, busy_last hn]
  cases pollReady n f <;> rfl

theorem writeThenPoll8 {s : State} (x y : InitState) (v : Byte) (hN : 1 ≤ s.cfg.busyRetryMax) (h : s.mode = .m8) :
    andThen (atState x s (writeCycle false v)) (fun s => atState y s pollCycle) = .next (polled8 y v s) := by
  have hw : atState x s (writeCycle false v) = .next { s with
      is := x
      lines := { s.lines with rs := .low, rw := .high, ce := .low, dir8 := .input, dout := .byte v }
      trace := s.trace ++ evs (w8 false v) } := by
    simp only [atState, writeCycle, writeEvents, h]
    rw [emitAll_w8 false v (by simpa using h)]
    simp [rsLevel, h]
  rw [hw]
  simp only [andThen_next, atState, pollCycle, h]
  rw [poll8_eq (by simpa using hN) (by simpa using h) rfl]
  simp [polled8, h, rdataAt_eq]

theorem checkedWrite_eq8 {s : State} {n : Nat} (x y : InitState) (v : Byte) (next : State → Result) (hN : 1 ≤ n)
    (hn : s.cfg.busyRetryMax = n) (h : s.mode = .m8) :
    checkedWrite x y v next s =
      if pollReady n (rdataAt s) then next (polled8 y v s) else .next (finishInitCtrl (polled8 y v s)) := by
  subst hn
  have e := pollStatus_last (s := polled8 y v s) (f := rdataAt s) hN rfl
  rw [checkedWrite, ← andThen_assoc, writeThenPoll8 x y v hN h, andThen_next, e]
  cases pollReady s.cfg.busyRetryMax (rdataAt s) <;> simp

/-- The state after the two function-set writes and their delays, in M8. -/
def setUp8 (s : State) : State :=
  { s with
    is := .d2
    lines := { s.lines with rs := .low, rw := .high, ce := .low, dir8 := .input, dout := .byte 0x3C }
    trace := s.trace ++
      (evs (w8 false 0x3C) ++ [ev (.delay s.cfg.delayFs1Us)] ++ evs (w8 false 0x3C) ++ [ev (.delay s.cfg.delayFs2Us)]) }

theorem emit_delay {s : State} (us : Micros) (h : s.mode ≠ .undef) :
    emit (.delay us) s = .next { s with trace := s.trace ++ [ev (.delay us)] } := by
  simp [emit, violation, h, perform, drawAnswer, performLines, answerOf, ev]

theorem initFunctionSets_eq8 {s : State} (h : s.mode = .m8) : initFunctionSets s = .next (setUp8 s) := by
  simp only [initFunctionSets, atState, writeCycle, writeEvents, funcsetCode, h]
  rw [emitAll_w8 _ _ (by simp)]
  simp only [andThen_next]
  rw [emit_delay _ (by simp)]
  simp only [andThen_next]
  rw [emitAll_w8 _ _ (by simp)]
  simp only [andThen_next]
  rw [emit_delay _ (by simp)]
  simp [setUp8, h, rsLevel, codeFuncset8]

theorem rdataAt_setUp8 (s : State) : rdataAt (setUp8 s) = rdataAt s := rfl

theorem rdataAt_polled8 (x : InitState) (v : Byte) (s : State) :
    rdataAt (polled8 x v s) = fun i => rdataAt s (sampleCount s.cfg.busyRetryMax (rdataAt s) + i) :=
  rdataAt_drop s _ _ rfl rfl

theorem polled8_trace (x : InitState) (v : Byte) (s : State) :
    (polled8 x v s).trace =
      s.trace ++ (evs (w8 false v) ++ pollTrace8 (sampleCount s.cfg.busyRetryMax (rdataAt s)) (rdataAt s)) := rfl

/-- The result of a poll of the tail. -/
theorem pollStatus_polled8 {s : State} (x : InitState) (v : Byte) (hN : 1 ≤ s.cfg.busyRetryMax) :
    pollStatus (polled8 x v s) = if pollReady s.cfg.busyRetryMax (rdataAt s) then .ok else .timeout :=
  pollStatus_last hN rfl

theorem polled8_cfg (x : InitState) (v : Byte) (s : State) : (polled8 x v s).cfg = s.cfg := rfl
theorem setUp8_cfg (s : State) : (setUp8 s).cfg = s.cfg := rfl

/-- INIT_CTRL in M8: the whole effect (R211, R213, R216, R217). -/
theorem execInitCtrl_eq8 {s : State} (a : Byte) (hN : 1 ≤ s.cfg.busyRetryMax) (h : s.mode = .m8) :
    execInitCtrl a s =
      .next (finishInitCtrl
        (let n := s.cfg.busyRetryMax
        let one := polled8 .dcP 0x0C (setUp8 s)
        let two := polled8 .clrP 0x01 one
        if pollReady n (rdataAt s) then
          if pollReady n (rdataAt one) then polled8 .emP 0x06 two else two
        else one)) := by
  have hs : rdataAt (setUp8 s) = rdataAt s := rfl
  simp only [execInitCtrl, inSession, h, init8, initFunctionSets_eq8 h, andThen_next, initTail]
  simp only [reduceCtorEq, if_false]
  have s1 := checkedWrite_eq8 (s := setUp8 s) .dc .dcP 0x0C
    (checkedWrite .clr .clrP 0x01 (checkedWrite .em .emP 0x06 fun s => .next (finishInitCtrl s))) hN rfl h
  have s2 := checkedWrite_eq8 (s := polled8 .dcP 0x0C (setUp8 s)) .clr .clrP 0x01
    (checkedWrite .em .emP 0x06 fun s => .next (finishInitCtrl s)) hN rfl h
  have s3 := checkedWrite_eq8 (s := polled8 .clrP 0x01 (polled8 .dcP 0x0C (setUp8 s))) .em .emP 0x06
    (fun s => .next (finishInitCtrl s)) hN rfl h
  rw [codeDispctrl, codeClear, codeEntry, s1, s2, s3, hs, ite_self]
  by_cases c1 : pollReady s.cfg.busyRetryMax (rdataAt s) = true
  · rw [if_pos c1, if_pos c1]
    by_cases c2 : pollReady s.cfg.busyRetryMax (rdataAt (polled8 .dcP 0x0C (setUp8 s))) = true
    · rw [if_pos c2, if_pos c2]
    · rw [if_neg c2, if_neg c2]
  · rw [if_neg c1, if_neg c1]

/-! ## The same in M4 -/

/-- The state after a write of v, its step of the FSM, and the poll that follows, in M4. -/
def polled4 (x : InitState) (v : Byte) (s : State) : State :=
  { s with
    is := x
    lines := { s.lines with rs := .low, rw := .high, ce := .low, dir4 := .input, dout := .nibble (lowNibble v) }
    hi := lowNibble (rdataAt s (2 * (sampleCount s.cfg.busyRetryMax (pairByte (rdataAt s)) - 1)))
    sample := pairByte (rdataAt s) (sampleCount s.cfg.busyRetryMax (pairByte (rdataAt s)) - 1)
    k := sampleCount s.cfg.busyRetryMax (pairByte (rdataAt s))
    answers := s.answers.drop (2 * sampleCount s.cfg.busyRetryMax (pairByte (rdataAt s)))
    draws := s.draws + 2 * sampleCount s.cfg.busyRetryMax (pairByte (rdataAt s))
    trace := s.trace ++
      (evs (w4 false v) ++ pollTrace4 (sampleCount s.cfg.busyRetryMax (pairByte (rdataAt s))) (rdataAt s)) }

theorem rdataAt_polled4 (x : InitState) (v : Byte) (s : State) :
    rdataAt (polled4 x v s) = fun i => rdataAt s (2 * sampleCount s.cfg.busyRetryMax (pairByte (rdataAt s)) + i) :=
  rdataAt_drop s _ _ rfl rfl

theorem polled4_trace (x : InitState) (v : Byte) (s : State) :
    (polled4 x v s).trace =
      s.trace ++
        (evs (w4 false v) ++ pollTrace4 (sampleCount s.cfg.busyRetryMax (pairByte (rdataAt s))) (rdataAt s)) := rfl

/-- The result of a poll of the tail. -/
theorem pollStatus_polled4 {s : State} (x : InitState) (v : Byte) (hN : 1 ≤ s.cfg.busyRetryMax) :
    pollStatus (polled4 x v s) = if pollReady s.cfg.busyRetryMax (pairByte (rdataAt s)) then .ok else .timeout :=
  pollStatus_last hN rfl

theorem polled4_cfg (x : InitState) (v : Byte) (s : State) : (polled4 x v s).cfg = s.cfg := rfl

theorem writeThenPoll4 {s : State} (x y : InitState) (v : Byte) (hN : 1 ≤ s.cfg.busyRetryMax) (h : s.mode = .m4) :
    andThen (atState x s (writeCycle false v)) (fun s => atState y s pollCycle) = .next (polled4 y v s) := by
  have hw : atState x s (writeCycle false v) = .next { s with
      is := x
      lines := { s.lines with rs := .low, rw := .high, ce := .low, dir4 := .input, dout := .nibble (lowNibble v) }
      trace := s.trace ++ evs (w4 false v) } := by
    simp only [atState, writeCycle, writeEvents, h]
    rw [emitAll_w4 false v (by simp)]
    simp [rsLevel, h]
  rw [hw]
  simp only [andThen_next, atState, pollCycle, h]
  rw [poll4_eq (by simpa using hN) (by simp) rfl]
  simp [polled4, h, rdataAt_eq]

theorem checkedWrite_eq4 {s : State} {n : Nat} (x y : InitState) (v : Byte) (next : State → Result) (hN : 1 ≤ n)
    (hn : s.cfg.busyRetryMax = n) (h : s.mode = .m4) :
    checkedWrite x y v next s =
      if pollReady n (pairByte (rdataAt s)) then next (polled4 y v s)
      else .next (finishInitCtrl (polled4 y v s)) := by
  subst hn
  have e := pollStatus_last (s := polled4 y v s) (f := pairByte (rdataAt s)) hN rfl
  rw [checkedWrite, ← andThen_assoc, writeThenPoll4 x y v hN h, andThen_next, e]
  cases pollReady s.cfg.busyRetryMax (pairByte (rdataAt s)) <;> simp

/-- The state after the preliminary nibble, the two function-set writes and their delays, in M4. -/
def setUp4 (s : State) : State :=
  { s with
    is := .d2
    lines :=
      { s.lines with
        rs := .low, rw := .high, ce := .low, dir4 := .input, dout := .nibble (lowNibble s.cfg.funcset4Code) }
    trace := s.trace ++
      (evs (w4n false 0x3) ++ evs (w4 false s.cfg.funcset4Code) ++ [ev (.delay s.cfg.delayFs1Us)] ++
        evs (w4 false s.cfg.funcset4Code) ++ [ev (.delay s.cfg.delayFs2Us)]) }

theorem rdataAt_setUp4 (s : State) : rdataAt (setUp4 s) = rdataAt s := rfl
theorem setUp4_cfg (s : State) : (setUp4 s).cfg = s.cfg := rfl

theorem setUp4_eq {s : State} (h : s.mode = .m4) :
    andThen (atState .pre s (emitAll (w4n false codePrelim))) initFunctionSets = .next (setUp4 s) := by
  simp only [atState]
  rw [emitAll_w4n _ _ (by simpa using h)]
  simp only [andThen_next, initFunctionSets, atState, writeCycle, writeEvents, funcsetCode, h]
  rw [emitAll_w4 _ _ (by simp)]
  simp only [andThen_next]
  rw [emit_delay _ (by simp)]
  simp only [andThen_next]
  rw [emitAll_w4 _ _ (by simp)]
  simp only [andThen_next]
  rw [emit_delay _ (by simp)]
  simp [setUp4, h, rsLevel, codePrelim]

/-- INIT_CTRL in M4: the whole effect (R212 to R214, R216, R217). -/
theorem execInitCtrl_eq4 {s : State} (a : Byte) (hN : 1 ≤ s.cfg.busyRetryMax) (h : s.mode = .m4) :
    execInitCtrl a s =
      .next (finishInitCtrl
        (let n := s.cfg.busyRetryMax
        let one := polled4 .dcP 0x0C (setUp4 s)
        let two := polled4 .clrP 0x01 one
        if pollReady n (pairByte (rdataAt s)) then
          if pollReady n (pairByte (rdataAt one)) then polled4 .emP 0x06 two else two
        else one)) := by
  have hs : rdataAt (setUp4 s) = rdataAt s := rfl
  simp only [execInitCtrl, inSession, h, init4]
  rw [← andThen_assoc, setUp4_eq h, andThen_next, initTail]
  simp only [reduceCtorEq, if_false]
  have s1 := checkedWrite_eq4 (s := setUp4 s) .dc .dcP 0x0C
    (checkedWrite .clr .clrP 0x01 (checkedWrite .em .emP 0x06 fun s => .next (finishInitCtrl s))) hN rfl h
  have s2 := checkedWrite_eq4 (s := polled4 .dcP 0x0C (setUp4 s)) .clr .clrP 0x01
    (checkedWrite .em .emP 0x06 fun s => .next (finishInitCtrl s)) hN rfl h
  have s3 := checkedWrite_eq4 (s := polled4 .clrP 0x01 (polled4 .dcP 0x0C (setUp4 s))) .em .emP 0x06
    (fun s => .next (finishInitCtrl s)) hN rfl h
  rw [codeDispctrl, codeClear, codeEntry, s1, s2, s3, hs, ite_self]
  by_cases c1 : pollReady s.cfg.busyRetryMax (pairByte (rdataAt s)) = true
  · rw [if_pos c1, if_pos c1]
    by_cases c2 : pollReady s.cfg.busyRetryMax (pairByte (rdataAt (polled4 .dcP 0x0C (setUp4 s)))) = true
    · rw [if_pos c2, if_pos c2]
    · rw [if_neg c2, if_neg c2]
  · rw [if_neg c1, if_neg c1]

end Sys2Proof.Machine
end

