-- ==== Sys2Proof/Laws/PerInstr.lean ====
section
/-! SUPPORT. Statements made of every instruction as syntax, one lemma per constructor. -/

namespace Sys2Proof.Laws

/-- Decoding the encoding of a well-formed instruction gives the instruction back. -/
def RoundTrip.Statement (i : Instr) : Prop := i.wellFormed = true → decode (encode i) = .ok i

/-- The round trip of a command word: its two fields come back out. -/
theorem roundTrip_command (op : Nibble) (arg : Byte) (i : Instr)
    (h : ∀ w, opField w = op → argField w = arg → decodeCommand w = i) : decode (.command (cmdWord op arg)) = .ok i :=
  congrArg Except.ok (h _ (opField_cmdWord op arg) (argField_cmdWord op arg))

theorem RoundTrip.init (arg : Byte) : RoundTrip.Statement (.init arg) := fun _ =>
  roundTrip_command _ _ _ fun w h1 h2 => by simp [decodeCommand, h1, h2]

theorem RoundTrip.deinit (arg : Byte) : RoundTrip.Statement (.deinit arg) := fun _ =>
  roundTrip_command _ _ _ fun w h1 h2 => by simp [decodeCommand, h1, h2]

theorem RoundTrip.writeInstr (v : Byte) : RoundTrip.Statement (.writeInstr v) := fun _ =>
  roundTrip_command _ _ _ fun w h1 h2 => by simp [decodeCommand, h1, h2]

theorem RoundTrip.writeData (v : Byte) : RoundTrip.Statement (.writeData v) := fun _ =>
  roundTrip_command _ _ _ fun w h1 h2 => by simp [decodeCommand, h1, h2]

theorem RoundTrip.readInstr (arg : Byte) : RoundTrip.Statement (.readInstr arg) := fun _ =>
  roundTrip_command _ _ _ fun w h1 h2 => by simp [decodeCommand, h1, h2]

theorem RoundTrip.readData (arg : Byte) : RoundTrip.Statement (.readData arg) := fun _ =>
  roundTrip_command _ _ _ fun w h1 h2 => by simp [decodeCommand, h1, h2]

theorem RoundTrip.waitBusy (arg : Byte) : RoundTrip.Statement (.waitBusy arg) := fun _ =>
  roundTrip_command _ _ _ fun w h1 h2 => by simp [decodeCommand, h1, h2]

theorem RoundTrip.initCtrl (arg : Byte) : RoundTrip.Statement (.initCtrl arg) := fun _ =>
  roundTrip_command _ _ _ fun w h1 h2 => by simp [decodeCommand, h1, h2]

theorem RoundTrip.reserved0 (arg : Byte) : RoundTrip.Statement (.reserved0 arg) := fun _ =>
  roundTrip_command _ _ _ fun w h1 h2 => by simp [decodeCommand, h1, h2]

theorem RoundTrip.reserved9 (arg : Byte) : RoundTrip.Statement (.reserved9 arg) := fun _ =>
  roundTrip_command _ _ _ fun w h1 h2 => by simp [decodeCommand, h1, h2]

theorem RoundTrip.reservedA (arg : Byte) : RoundTrip.Statement (.reservedA arg) := fun _ =>
  roundTrip_command _ _ _ fun w h1 h2 => by simp [decodeCommand, h1, h2]

theorem RoundTrip.reservedB (arg : Byte) : RoundTrip.Statement (.reservedB arg) := fun _ =>
  roundTrip_command _ _ _ fun w h1 h2 => by simp [decodeCommand, h1, h2]

theorem RoundTrip.reservedC (arg : Byte) : RoundTrip.Statement (.reservedC arg) := fun _ =>
  roundTrip_command _ _ _ fun w h1 h2 => by simp [decodeCommand, h1, h2]

theorem RoundTrip.reservedD (arg : Byte) : RoundTrip.Statement (.reservedD arg) := fun _ =>
  roundTrip_command _ _ _ fun w h1 h2 => by simp [decodeCommand, h1, h2]

theorem RoundTrip.reservedE (arg : Byte) : RoundTrip.Statement (.reservedE arg) := fun _ =>
  roundTrip_command _ _ _ fun w h1 h2 => by simp [decodeCommand, h1, h2]

theorem RoundTrip.reservedF (arg : Byte) : RoundTrip.Statement (.reservedF arg) := fun _ =>
  roundTrip_command _ _ _ fun w h1 h2 => by simp [decodeCommand, h1, h2]

theorem RoundTrip.cwri (v : Byte) : RoundTrip.Statement (.cwri v) := fun _ => by
  simp [decode, encode, decodePair, opField_cmdWord, argField_cmdWord]

theorem RoundTrip.cwrd (v : Byte) : RoundTrip.Statement (.cwrd v) := fun _ => by
  simp [decode, encode, decodePair, opField_cmdWord, argField_cmdWord]

theorem RoundTrip.portInit (w : Byte) : RoundTrip.Statement (.portInit w) := fun _ => rfl

theorem RoundTrip.portDeinit : RoundTrip.Statement .portDeinit := fun _ => rfl

theorem RoundTrip.setRs : RoundTrip.Statement .setRs := fun _ => rfl

theorem RoundTrip.clrRs : RoundTrip.Statement .clrRs := fun _ => rfl

theorem RoundTrip.setRw : RoundTrip.Statement .setRw := fun _ => rfl

theorem RoundTrip.clrRw : RoundTrip.Statement .clrRw := fun _ => rfl

theorem RoundTrip.setCe : RoundTrip.Statement .setCe := fun _ => rfl

theorem RoundTrip.clrCe : RoundTrip.Statement .clrCe := fun _ => rfl

theorem RoundTrip.dirIn4 : RoundTrip.Statement .dirIn4 := fun _ => rfl

theorem RoundTrip.dirIn8 : RoundTrip.Statement .dirIn8 := fun _ => rfl

theorem RoundTrip.dirOut4 : RoundTrip.Statement .dirOut4 := fun _ => rfl

theorem RoundTrip.dirOut8 : RoundTrip.Statement .dirOut8 := fun _ => rfl

theorem RoundTrip.out4 (n : Byte) : RoundTrip.Statement (.out4 n) := fun _ => rfl

theorem RoundTrip.out8 (v : Byte) : RoundTrip.Statement (.out8 v) := fun _ => rfl

theorem RoundTrip.in4 : RoundTrip.Statement .in4 := fun _ => rfl

theorem RoundTrip.in8 : RoundTrip.Statement .in8 := fun _ => rfl

theorem RoundTrip.delay (us : Micros) : RoundTrip.Statement (.delay us) := fun _ => rfl

theorem RoundTrip.funcset8 : RoundTrip.Statement .funcset8 := fun _ => rfl

theorem RoundTrip.dispctrl : RoundTrip.Statement .dispctrl := fun _ => rfl

theorem RoundTrip.clear : RoundTrip.Statement .clear := fun _ => rfl

theorem RoundTrip.entry : RoundTrip.Statement .entry := fun _ => rfl

theorem RoundTrip.prelim : RoundTrip.Statement .prelim := fun _ => rfl

theorem RoundTrip.funcset4 : RoundTrip.Statement .funcset4 := fun _ => rfl

theorem RoundTrip.setDdram (addr : BitVec 7) : RoundTrip.Statement (.setDdram addr) := fun _ => decodeLcdByte_setDdram addr

end Sys2Proof.Laws
end

