-- ==== Sys2Proof/Laws/Steps.lean ====
section
/-! SUPPORT. What one step is, by the state it starts in, and everything one event of a running command can do. -/

namespace Sys2Proof.Machine

theorem config_valid_iff (c : Config) : c.valid = true ↔ 1 ≤ c.busyRetryMax := by
  unfold Sys2Proof.Config.valid
  split
  · simp [*]
  · simp [*]

/-- Reset comes first (R281). -/
theorem step_of_reset {s : State} (hc : s.cfg.valid = true) (hr : s.resetReq = true) : step s = .next (powerOnReset s) := by
  simp [step, oneStep, hc, hr]

/-- A waiting response comes next (R62). -/
theorem step_of_response {s : State} (hc : s.cfg.valid = true) (hr : s.resetReq = false) (hv : s.rspValid = true) :
    step s = if s.rspReady then .next (takeResponse s) else .next s := by
  simp [step, oneStep, hc, hr, advance, hv]

/-- An accepted command runs on (R7, R30). -/
theorem step_of_run {s : State} {op : Op} {arg : Byte} {j i : Nat} {bound : Byte} (hc : s.cfg.valid = true)
    (hr : s.resetReq = false) (hv : s.rspValid = false) (hs : s.seq = .run op arg j i bound) :
    step s = tick op arg j i bound s := by
  simp [step, oneStep, hc, hr, advance, hv, hs]

/-- A command is turned away with CONTRACT or with NOT_INIT, and with nothing else (R265). -/
theorem rejection_eq_some {op : Op} {arg : Byte} {s t : State} (h : rejection op arg s = some t) :
    t = raiseContractFault s ∨ s.mode = .undef ∧ t = notInitStub s := by
  unfold rejection at h
  split at h
  · cases h
    exact .inl rfl
  · split at h
    · cases h
      exact .inl rfl
    · split at h
      · cases h
        exact .inl rfl
      · cases h
  · cases h
  all_goals
    split at h
    · next hm =>
      cases h
      exact .inr ⟨hm, rfl⟩
    · cases h

theorem tick_rejected {op : Op} {arg : Byte} {j i : Nat} {bound : Byte} {s t : State} (h : rejection op arg s = some t) :
    tick op arg j i bound s = .next t := by
  simp [tick, h]

theorem tick_executes {op : Op} {arg : Byte} {j i : Nat} {bound : Byte} {s : State} (h : rejection op arg s = none) :
    tick op arg j i bound s = nextStep op arg j i bound s := by
  simp [tick, h]

/-- What a command that executes may rest on (R265). -/
theorem executes_iff {op : Op} {arg : Byte} {s : State} :
    rejection op arg s = none ↔
      (∀ c, op ≠ .reserved c) ∧ (op = .init → (busWidth arg).isSome = true ∧ s.mode = .undef) ∧
        (op ≠ .init → op ≠ .deinit → s.mode ≠ .undef) := by
  cases op with
  | init =>
    cases h : busWidth arg <;> simp [rejection, h]
  | _ => simp [rejection]

/-- IDLE takes the next word (R62). -/
theorem step_of_idle {s : State} (hc : s.cfg.valid = true) (hr : s.resetReq = false) (hv : s.rspValid = false)
    (hs : s.seq = .idle) : step s = fetch s := by
  simp [step, oneStep, hc, hr, advance, hv, hs]

theorem runOffered_event {i : Instr} {s : State} (h : s.pace = .event) :
    runOffered i s =
      match accept i s with
      | some t => .next t
      | none => exec i s := by
  unfold runOffered
  split
  · simp_all
  · rfl

theorem runOffered_command {i : Instr} {s : State} (h : s.pace = .command) : runOffered i s = exec i s := by
  unfold runOffered
  split
  · rfl
  · simp_all

/-- What is done between two events writes SAMPLE, HI and K alone. -/
theorem afterEvent_eq {α : Type} (p : Part) (i : Nat) (e : PortOp) (bound : Byte) (s : State) (f : State → α)
    (hf : ∀ s a b c, f { s with sample := a, hi := b, k := c } = f s) : f (afterEvent p i e bound s) = f s := by
  have count : ∀ s, f (countSample p i e s) = f s := by
    intro s
    unfold countSample
    split
    · rfl
    · rfl
    · split
      · exact hf s s.sample s.hi 0
      · split
        · exact hf s s.sample s.hi _
        · rfl
  unfold afterEvent
  rw [count]
  unfold capture
  split
  · exact hf s s.sample _ s.k
  · split
    · exact hf s _ s.hi s.k
    · rfl

/-- Nothing is done between the events of a fixed list. -/
@[simp] theorem afterEvent_fixed (events : List PortOp) (i : Nat) (e : PortOp) (bound : Byte) (s : State) :
    afterEvent (.fixed events) i e bound s = s := by
  simp [afterEvent, capture, countSample, bringsHighNibble, assemblesSample]

/-- Between the events of a read HI is written with the first IN4 and SAMPLE after the last event (R170, R171). -/
theorem afterEvent_read (events : List PortOp) (i : Nat) (e : PortOp) (bound : Byte) (s : State) :
    afterEvent (.read events) i e bound s =
      if e = .in4 ∧ i = 3 then { s with hi := lowNibble bound }
      else if i + 1 = events.length then { s with sample := assembledByte bound s }
      else s := by
  simp [afterEvent, capture, countSample, bringsHighNibble, assemblesSample]

/-- Everything the next event of a command can lead to: what follows it done, then the part's end or the next position. -/
theorem nextStep_eq_next {op : Op} {arg : Byte} {j i : Nat} {bound : Byte} {s t : State}
    (h : nextStep op arg j i bound s = .next t) :
    ∃ e u, nextEvent (partOf op arg s) i s = some e ∧ violation e s = none ∧
      u = afterEvent (partOf op arg s) i e (boundAfter e bound s) (perform e s) ∧
      (partOver (partOf op arg s) i e u = true ∧ t = completePart op arg (j + 1) u ∨
        partOver (partOf op arg s) i e u = false ∧
          t = { u with seq := .run op arg (j + 1) (i + 1) (boundAfter e bound s) }) := by
  unfold nextStep at h
  split at h
  · cases h
  · next e he =>
    obtain ⟨w, hw, h⟩ := andThen_eq_next h
    obtain ⟨hv, rfl⟩ := emit_eq_next hw
    refine ⟨e, _, he, hv, rfl, ?_⟩
    simp only at h
    split at h
    · next hover =>
      cases h
      exact .inl ⟨hover, rfl⟩
    · next hover =>
      cases h
      exact .inr ⟨by simpa using hover, rfl⟩

/-- Everything a step of an accepted command can answer next. -/
theorem tick_eq_next {op : Op} {arg : Byte} {j i : Nat} {bound : Byte} {s t : State} (h : tick op arg j i bound s = .next t) :
    rejection op arg s = some t ∨ rejection op arg s = none ∧ nextStep op arg j i bound s = .next t := by
  unfold tick at h
  split at h
  · next hr =>
    cases h
    exact .inl hr
  · next hr => exact .inr ⟨hr, h⟩

/-- The part a command is in depends on MODE, IS and the configuration. -/
theorem partOf_congr {op : Op} {arg : Byte} {s t : State} (hm : t.mode = s.mode) (hi : t.is = s.is) (hc : t.cfg = s.cfg) :
    partOf op arg t = partOf op arg s := by
  cases op <;> simp only [partOf, hm, initPart, hi, hc, funcsetCode]

/-- The end of a part does not read SEQ. -/
theorem completePart_seq (op : Op) (arg : Byte) (j : Nat) (s : State) (x : Seq) :
    completePart op arg j { s with seq := x } = completePart op arg j s := by
  cases op <;> rfl

end Sys2Proof.Machine
end

