-- ==== Sys2Proof/Tests/Slice0.lean ====
section
/-! SUPPORT. Tests: words and vectors of spec/95_test_vectors.md (each cites its vector), an ill-formed term for each check
of WellFormed, and for every statement with hypotheses a state and operands that meet them. -/

namespace Sys2Proof.Tests

open Sys2Proof Sys2Proof.Machine

/-! ## Small states: the start states of 95_test_vectors.md section 0 -/

/-- The parameters the vectors state, with N = n. -/
def cfgOf (n : Nat) : Config := { busyRetryMax := n, delayFs1Us := 39, delayFs2Us := 37, funcset4Code := 0x2C }

/-- S0, power-on. -/
def s0 : State := { State.reset with cfg := cfgOf 2 }

/-- S8 with N = n, and the answers the LCD is to give. -/
def s8n (n : Nat) (answers : List Byte) : State :=
  { State.reset with
    cfg := cfgOf n, mode := .m8, answers := answers
    lines := { rs := .low, rw := .high, ce := .low, dir4 := .u, dir8 := .input, dout := .u } }

/-- S4 with N = n, and the answers the LCD is to give. -/
def s4n (n : Nat) (answers : List Byte) : State :=
  { State.reset with
    cfg := cfgOf n, mode := .m4, answers := answers
    lines := { rs := .low, rw := .high, ce := .low, dir4 := .input, dir8 := .u, dout := .u } }

/-- S8 with N = 2. -/
def s8 (answers : List Byte) : State := s8n 2 answers

/-- S4 with N = 2. -/
def s4 (answers : List Byte) : State := s4n 2 answers

/-- A view of the next state. -/
def see {α : Type} (r : Result) (f : State → α) : Option α :=
  match r with
  | .next t => some (f t)
  | .fault _ => none
  | .refused _ => none

/-- Whether an answer is a next state. -/
def goes (r : Result) : Bool := (see r fun _ => ()).isSome

/-- The trace and the response a command leaves. -/
def outcome (s : State) : List Event × Status × Byte := (s.trace, s.rspStatus, s.rspData)

/-! ## Well-formedness: one ill-formed term per check -/

theorem test_port_init_of_another_width_is_ill_formed : (Instr.portInit 5).wellFormed = false := by decide
theorem test_out4_above_nibble_is_ill_formed : (Instr.out4 0x10).wellFormed = false := by decide

/-! ## Decoding: words written bit by bit from 30_encoding.md R70 to R88 -/

theorem test_decode_session : decode (.command 0b0001_00000100) = .ok (.init 4) ∧
    decode (.command 0b0010_10101011) = .ok (.deinit 0xAB) := by decide
theorem test_decode_write : decode (.command 0b0011_00111100) = .ok (.writeInstr 0x3C) ∧
    decode (.command 0b0100_01000001) = .ok (.writeData 0x41) := by decide
theorem test_decode_read : decode (.command 0b0101_11111111) = .ok (.readInstr 0xFF) ∧
    decode (.command 0b0110_00000000) = .ok (.readData 0) := by decide
theorem test_decode_poll_and_init : decode (.command 0b0111_11111111) = .ok (.waitBusy 0xFF) ∧
    decode (.command 0b1000_10101010) = .ok (.initCtrl 0xAA) := by decide
/-- T1 to T4: OP 0x0, 0x9, 0xF; the rest from R73. -/
theorem test_decode_reserved :
    decode (.command 0b0000_00000000) = .ok (.reserved0 0) ∧ decode (.command 0b1001_10101011) = .ok (.reserved9 0xAB) ∧
    decode (.command 0b1010_00000001) = .ok (.reservedA 1) ∧ decode (.command 0b1011_00000001) = .ok (.reservedB 1) ∧
    decode (.command 0b1100_00000001) = .ok (.reservedC 1) ∧ decode (.command 0b1101_00000001) = .ok (.reservedD 1) ∧
    decode (.command 0b1110_00000001) = .ok (.reservedE 1) ∧ decode (.command 0b1111_00000000) = .ok (.reservedF 0) := by
  decide
theorem test_decode_pseudo :
    decode (.commandPair 0b0011_11000011 0b0111_00000000) = .ok (.cwri 0xC3) ∧
    decode (.commandPair 0b0100_01000001 0b0111_00000000) = .ok (.cwrd 0x41) ∧
    decode (.commandPair 0b0100_01000001 0b0111_00000001) = .error .notAPseudoPair ∧
    decode (.commandPair 0b0101_00000000 0b0111_00000000) = .error .notAPseudoPair := by decide
theorem test_decode_session_and_control_events :
    decode (.portEvent 0b0000 0b1000) = .ok (.portInit 8) ∧ decode (.portEvent 0b0001 0) = .ok .portDeinit ∧
    decode (.portEvent 0b0010 0) = .ok .setRs ∧ decode (.portEvent 0b0011 0) = .ok .clrRs ∧
    decode (.portEvent 0b0100 0) = .ok .setRw ∧ decode (.portEvent 0b0101 0) = .ok .clrRw ∧
    decode (.portEvent 0b0110 0) = .ok .setCe ∧ decode (.portEvent 0b0111 0) = .ok .clrCe := by decide
theorem test_decode_data_events :
    decode (.portEvent 0b1000 0) = .ok .dirIn4 ∧ decode (.portEvent 0b1001 0) = .ok .dirIn8 ∧
    decode (.portEvent 0b1010 0) = .ok .dirOut4 ∧ decode (.portEvent 0b1011 0) = .ok .dirOut8 ∧
    decode (.portEvent 0b1100 0b00001111) = .ok (.out4 0xF) ∧ decode (.portEvent 0b1101 0b00111100) = .ok (.out8 0x3C) ∧
    decode (.portEvent 0b1110 0) = .ok .in4 ∧ decode (.portEvent 0b1111 0) = .ok .in8 ∧
    decode (.portEvent 0b1111 1) = .error .nonzeroPortArg := by decide
theorem test_decode_delay : decode (.delayRequest 0b0000000000100111) = .ok (.delay 39) := by decide
theorem test_decode_lcd_codes :
    decode (.lcdByte 0b00111100) = .ok .funcset8 ∧ decode (.lcdByte 0b00001100) = .ok .dispctrl ∧
    decode (.lcdByte 0b00000001) = .ok .clear ∧ decode (.lcdByte 0b00000110) = .ok .entry ∧
    decode (.lcdNibble 0b0011) = .ok .prelim ∧ decode .lcdParameter = .ok .funcset4 ∧
    decode (.lcdByte 0b11000011) = .ok (.setDdram 0x43) ∧ decode (.lcdByte 0b00000010) = .error .unnamedLcdCode := by decide
/-- The table's bits: a command in two bytes, a pair in a three-byte cell. -/
theorem test_decode_table_words :
    decodeTableWord 16 0x33C = some (.writeInstr 0x3C) ∧ decodeTableWord 24 0x700448 = some (.cwrd 0x48) ∧
    decodeTableWord 8 0x6 = some .setCe ∧ decodeTableWord 8 0x3C = some .funcset8 := by decide
/-- Programs P1 and P4: `cwrd 'H'`, `.word 0x900`; a line with no command is the model's choice (log 22). -/
theorem test_assemble :
    assembleLine "cwrd 'H'  ; Putc".toList = .ok [0x448, 0x700] ∧ assembleLine ".word 0x900".toList = .ok [0x900] ∧
    assembleLine "  ; a comment".toList = .ok [] ∧ assembleLine "init 4".toList = .ok [0x104] ∧ assembleLine "init 5".toList = .error .operandRange := by decide

/-! ## Session commands -/

/-- T10. -/
theorem test_init8 : see (exec (.init 8) s0) (fun t => (t.mode, t.lines, outcome t)) =
    some (.m8, (s8 []).lines, evs [.portInit 8], .ok, 0x00) := by decide
/-- T14, T16: the bad width, and INIT inside a session. -/
theorem test_init_contract_faults :
    see (exec (.init 255) (s8 [])) (fun t => (outcome t, t.mode)) = some (([], .contract, 0x00), .m8) ∧
    see (exec (.init 4) (s8 [])) (fun t => (outcome t, t.mode)) = some (([], .contract, 0x00), .m8) := by
  decide
/-- T17. -/
theorem test_deinit : see (exec (.deinit 0) { s8 [] with fault := true }) (fun t => (t.mode, t.lines, t.fault)) =
    some (.undef, s0.lines, true) := by decide

/-! ## Writes and reads -/

/-- T30. -/
theorem test_write_instr_8 : see (exec (.writeInstr 0x01) (s8 [])) (fun t => (outcome t, t.lines)) =
    some ((evs [.clrRs, .clrRw, .setCe, .out8 0x01, .dirOut8, .clrCe, .dirIn8, .setRw], .ok, 0x00),
      { rs := .low, rw := .high, ce := .low, dir4 := .u, dir8 := .input, dout := .byte 0x01 }) := by decide
/-- T34. -/
theorem test_write_instr_4 : see (exec (.writeInstr 0x3C) (s4 [])) (fun t => (outcome t, t.lines)) =
    some ((evs [.clrRs, .clrRw, .setCe, .out4 0x3, .dirOut4, .clrCe, .setCe, .out4 0xC, .clrCe, .dirIn4, .setRw], .ok, 0x00),
      { rs := .low, rw := .high, ce := .low, dir4 := .input, dir8 := .u, dout := .nibble 0xC }) := by decide
/-- T31. -/
theorem test_write_data_8 : see (exec (.writeData 0x41) (s8 [])) (fun t => (t.trace, t.lines.rs, t.lines.dout)) =
    some (evs [.setRs, .clrRw, .setCe, .out8 0x41, .dirOut8, .clrCe, .dirIn8, .setRw], .high, .byte 0x41) := by decide
/-- T37. -/
theorem test_write_data_4 : see (exec (.writeData 0x0F) (s4 [])) (fun t => (t.trace, t.lines.dout)) =
    some (evs [.setRs, .clrRw, .setCe, .out4 0x0, .dirOut4, .clrCe, .setCe, .out4 0xF, .clrCe, .dirIn4, .setRw],
      .nibble 0xF) := by decide
/-- T40. -/
theorem test_read_instr_8 : see (exec (.readInstr 0) (s8 [0x83])) (fun t => (outcome t, t.sample)) =
    some ((evs [.clrRs, .setRw, .setCe] ++ [in8Event 0x83, ev .clrCe], .ok, 0x83), 0x83) := by decide
/-- T46: only the low four bits of an answer count, and the high nibble comes first. -/
theorem test_read_instr_4 : see (exec (.readInstr 0) (s4 [0xA8, 0x53])) (fun t => (outcome t, t.sample)) =
    some ((evs [.clrRs, .setRw, .setCe] ++ [in4Event 0x8] ++ evs [.clrCe, .setCe] ++ [in4Event 0x3, ev .clrCe], .ok, 0x83),
      0x83) := by decide
/-- T41. -/
theorem test_read_data_8 : see (exec (.readData 0) (s8 [0x41])) (fun t => (t.lines.rs, t.rspData)) = some (.high, 0x41) := by
  decide
/-- T45's answers on the data side. -/
theorem test_read_data_4 : see (exec (.readData 0) (s4 [0x7, 0xF])) (fun t => (t.lines.rs, t.rspData)) =
    some (.high, 0x7F) := by decide

/-! ## Polls and initialization -/

/-- T53: ready on the last allowed sample. -/
theorem test_wait_busy_8 : see (exec (.waitBusy 0) (s8n 3 [0xFF, 0x80, 0x7F])) (fun t => (outcome t, t.k)) =
    some ((evs [.clrRs, .setRw, .setCe] ++ [in8Event 0xFF, in8Event 0x80, in8Event 0x7F, ev .clrCe], .ok, 0x00), 3) := by decide
/-- T57: TIMEOUT over nibbles. -/
theorem test_wait_busy_4 :
    see (exec (.waitBusy 0) (s4 [0xF, 0xF, 0x8, 0x0])) (fun t => (t.rspStatus, t.k, t.sample, t.trace.length)) =
      some (.timeout, 2, 0x80, 14) := by decide
/-- E2, T60. -/
theorem test_init_ctrl_8 : see (exec (.initCtrl 0) (s8 [0, 0, 0])) outcome =
    some (evs (w8 false 0x3C) ++ [ev (.delay 39)] ++ evs (w8 false 0x3C) ++ [ev (.delay 37)] ++
      evs (w8 false 0x0C) ++ (evs [.clrRs, .setRw, .setCe] ++ [in8Event 0, ev .clrCe]) ++
      evs (w8 false 0x01) ++ (evs [.clrRs, .setRw, .setCe] ++ [in8Event 0, ev .clrCe]) ++
      evs (w8 false 0x06) ++ (evs [.clrRs, .setRw, .setCe] ++ [in8Event 0, ev .clrCe]), .ok, 0x00) := by decide
/-- T65: 89 events. -/
theorem test_init_ctrl_4 :
    see (exec (.initCtrl 0) (s4 [0, 0, 0, 0, 0, 0])) (fun t => (t.trace.length, t.rspStatus, t.is)) = some (89, .ok, .idle) := by
  decide

/-! ## Stubs, reserved OPs, pseudo-instructions -/

/-- T20, T22, T8. -/
theorem test_stub_before_init :
    see (exec (.writeInstr 0x01) s0) (fun t => (outcome t, t.fault)) = some (([], .notInit, 0xFF), true) ∧
    see (exec (.readInstr 0) s0) (fun t => (outcome t, t.draws)) = some (([], .notInit, 0xFF), 0) ∧
    see (exec (.initCtrl 0xAA) s0) (fun t => (outcome t, t.fault)) = some (([], .notInit, 0xFF), true) := by decide
/-- R62: with rsp_ready = 0 the write's response waits and the poll stays offered. -/
theorem test_cwrd_waits_for_the_host :
    see (exec (.cwrd 0x65) { s8 [0x00] with rspReady := false }) (fun t => (t.trace.length, t.rspValid, t.queue)) =
      some (8, true, [.command 0x700]) := by decide
/-- T4: reserved is found before NOT_INIT. -/
theorem test_reserved : see (exec (.reserved9 0xFF) s0) (fun t => (outcome t, t.fault, t.mode)) =
    some (([], .contract, 0x00), true, .undef) := by decide
/-- Program P5, `cwrd 'e'` with N = 1: the poll times out. -/
theorem test_cwrd_timeout : see (exec (.cwrd 0x65) (s8n 1 [0x80])) (fun t => (t.trace.length, t.delivered, t.rspStatus)) =
    some (13, [⟨.ok, 0x00⟩], .timeout) := by decide
/-- Program P2, `cwri 0xC3`. -/
theorem test_cwri_4 : see (exec (.cwri 0xC3) (s4 [0x8, 0x3, 0x4, 0x3])) (fun t => (t.trace.length, t.rspStatus, t.k, t.sample)) =
    some (25, .ok, 2, 0x43) := by decide

/-! ## Port events, LCD codes -/

/-- 40_port.md R101. -/
theorem test_port_init : see (exec (.portInit 4) s0) (fun t => (t.lines, t.mode)) = some ((s4 []).lines, .undef) := by decide
/-- 40_port.md R102. -/
theorem test_port_deinit : see (exec .portDeinit (s4 [])) (fun t => t.lines) = some s0.lines := by decide
/-- 40_port.md R103 to R108. -/
theorem test_control_lines :
    see (exec .setRs (s8 [])) (fun t => t.lines.rs) = some .high ∧ see (exec .clrRs (s8 [])) (fun t => t.lines.rs) = some .low ∧
    see (exec .setRw (s8 [])) (fun t => t.lines.rw) = some .high ∧ see (exec .clrRw (s8 [])) (fun t => t.lines.rw) = some .low ∧
    see (exec .setCe (s8 [])) (fun t => t.lines.ce) = some .high ∧ see (exec .clrCe (s8 [])) (fun t => t.lines.ce) = some .low := by
  decide
/-- 40_port.md R109 to R112. -/
theorem test_directions :
    see (exec .dirIn4 (s4 [])) (fun t => t.lines.dir4) = some .input ∧
    see (exec .dirIn8 (s8 [])) (fun t => t.lines.dir8) = some .input ∧
    see (exec .dirOut4 (s4 [])) (fun t => t.lines.dir4) = some .output ∧
    see (exec .dirOut8 (s8 [])) (fun t => t.lines.dir8) = some .output := by decide
/-- 40_port.md R113, R114. -/
theorem test_outputs :
    see (exec (.out4 0xC) (s4 [])) (fun t => t.lines.dout) = some (.nibble 0xC) ∧
    see (exec (.out8 0x3C) (s8 [])) (fun t => t.lines.dout) = some (.byte 0x3C) := by decide
/-- 40_port.md R115, R116. -/
theorem test_inputs :
    see (exec .in4 (s4 [0xA8])) (fun t => (t.trace, t.answers)) = some ([in4Event 0x8], []) ∧
    see (exec .in8 (s8 [0xA8])) (fun t => (t.trace, t.answers)) = some ([in8Event 0xA8], []) := by decide
/-- 40_port.md R117. -/
theorem test_delay : see (exec (.delay 39) (s8 [])) (fun t => (t.trace, t.lines)) = some ([ev (.delay 39)], (s8 []).lines) := by
  decide
/-- 30_encoding.md R79, R83 to R85. -/
theorem test_lcd_codes :
    see (exec .funcset8 (s8 [])) (fun t => t.trace) = some (evs (w8 false 0x3C)) ∧
    see (exec .dispctrl (s8 [])) (fun t => t.trace) = some (evs (w8 false 0x0C)) ∧
    see (exec .clear (s4 [])) (fun t => t.trace) = some (evs (w4 false 0x01)) ∧
    see (exec .entry (s4 [])) (fun t => t.trace) = some (evs (w4 false 0x06)) ∧
    see (exec .prelim (s4 [])) (fun t => t.trace) = some (evs (w4n false 0x3)) ∧
    see (exec .funcset4 (s4 [])) (fun t => t.trace) = some (evs (w4 false 0x2C)) ∧
    see (exec (.setDdram 0x43) (s8 [])) (fun t => t.trace) = some (evs (w8 false 0xC3)) := by decide

/-! ## Steps -/

/-- The host's question: the word placed is the one the next step runs. -/
theorem test_step_runs_placed_word :
    see (step (State.reset.withFetchWord 16 0x108)) (fun t => (t.mode, t.trace)) = some (.m8, evs [.portInit 8]) := by decide
/-- T39: at event 6 of `wrd 0x41` in M8, CLR_CE. -/
theorem test_event_six_of_write :
    see (step { s8 [] with
        seq := .run .writeData 0x41 5 5 0
        lines := { rs := .high, rw := .low, ce := .high, dir4 := .u, dir8 := .output, dout := .byte 0x41 } })
      (fun t => (t.trace, t.seq)) = some ([ev .clrCe], .run .writeData 0x41 6 6 0) := by decide
/-- T61: the first TIMEOUT of the tail ends INIT_CTRL. -/
theorem test_first_timeout_ends_init_ctrl :
    see (exec (.initCtrl 0) (s8 [0x80, 0x80])) (fun t => (t.trace.length, t.rspStatus, t.is)) = some (32, .timeout, .idle) := by
  decide
/-- T90: GotoXY(3, 1) with WIDTH 16. -/
theorem test_goto_xy : ddramAddress ⟨16, 2⟩ 3 1 = 0x43 ∧ ddramAddress ⟨16, 2⟩ 16 1 = 0x40 ∧ ddramAddress ⟨16, 2⟩ 3 2 = 0x03 := by
  decide

/-- R246: SetupScreenDimensions gives OK on a block with a response waiting too, and that response goes to the host. -/
theorem test_setup_on_a_block_that_is_not_quiet :
    (match runAction 1 DriverState.start (.call (.setupScreenDimensions 16 2)) { s0 with rspValid := true, rspStatus := .contract } with
     | .ok (_, t, st) => some (t.delivered, st)
     | .error _ => none) = some ([⟨.contract, 0x00⟩], .ok) := by decide

/-! ## Witnesses: for each statement with hypotheses, a state and operands that meet them, one per clause -/

theorem witness_DecodeOfEncodeIsIdentity : (Instr.out4 0xF).wellFormed = true ∧ (Instr.portInit 8).wellFormed = true := by
  decide
theorem witness_ReservedOpIsContractFault :
    (opField 0x0FF).toNat = 0 ∧ 9 ≤ (opField 0x900).toNat ∧ 9 ≤ (opField 0xFFF).toNat := by decide
theorem witness_InitBindsWidth :
    s0.mode = .undef ∧ ((3 : Byte) ≠ 4 ∧ (3 : Byte) ≠ 8) ∧ (s8 []).mode ≠ .undef ∧
    decode (.command 0x108) = .ok (.init 8) ∧ see (exec (.init 8) s0) (fun t => t.mode) = some .m8 := by decide
theorem witness_CommandsBeforeInitAreStubs : s0.mode = .undef := rfl
theorem witness_SessionsRepeat : (4 : Byte) = 4 ∨ (4 : Byte) = 8 := by decide
/-- Also for ReadCommandsInM8, WaitBusyInM8's and InitCtrlInM8's premises, busReadable, and the clauses on MODE = M8. -/
theorem witness_m8 : (s8 []).mode = .m8 ∧ (s8 []).lines.dir8 = .input ∧ 1 ≤ (s8 []).cfg.busyRetryMax := by decide
/-- Also for ReadCommandsInM4, WaitBusyInM4's and InitCtrlInM4's premises, busReadable, and the clauses on MODE = M4. -/
theorem witness_m4 : (s4 []).mode = .m4 ∧ (s4 []).lines.dir4 = .input ∧ 1 ≤ (s4 []).cfg.busyRetryMax := by decide
theorem witness_busReadable : busReadable (s8 []) ∧ busReadable (s4 []) := ⟨.inl ⟨rfl, rfl⟩, .inr ⟨rfl, rfl⟩⟩
/-- N = 3: ready at once (k = 0), ready on the last sample allowed (k = 2), never ready. -/
theorem witness_WaitBusyInM8 :
    (0 < 3 ∧ (rdataAt (s8n 3 [0x00]) 0).getLsbD 7 = false) ∧
    (2 < 3 ∧ (rdataAt (s8n 3 [0xFF, 0x80, 0x7F]) 2).getLsbD 7 = false ∧
      ∀ i, i < 2 → (rdataAt (s8n 3 [0xFF, 0x80, 0x7F]) i).getLsbD 7 = true) ∧
    (∀ i, i < (s8n 3 [0x80, 0x80, 0x80]).cfg.busyRetryMax → (rdataAt (s8n 3 [0x80, 0x80, 0x80]) i).getLsbD 7 = true) := by
  decide
theorem witness_WaitBusyInM4 :
    (0 < 2 ∧ (rdataAt (s4 [0x7, 0xF]) (2 * 0)).getLsbD 3 = false) ∧
    (1 < 2 ∧ (rdataAt (s4 [0x8, 0x0, 0x0, 0x5]) (2 * 1)).getLsbD 3 = false ∧
      ∀ i, i < 1 → (rdataAt (s4 [0x8, 0x0, 0x0, 0x5]) (2 * i)).getLsbD 3 = true) ∧
    (∀ i, i < (s4 [0xF, 0xF, 0x8, 0x0]).cfg.busyRetryMax → (rdataAt (s4 [0xF, 0xF, 0x8, 0x0]) (2 * i)).getLsbD 3 = true) := by
  decide
/-- The samples differ in bits 6:0. -/
theorem witness_PollOutcomeDependsOnBusyBitOnly :
    (s8 [0x80, 0x05]).mode = (s8 [0xFF, 0x7F]).mode ∧
    (s8 [0x80, 0x05]).cfg.busyRetryMax = (s8 [0xFF, 0x7F]).cfg.busyRetryMax ∧
    (∀ i, (s8 [0x80, 0x05]).mode = .m8 → (rdataAt (s8 [0x80, 0x05]) i).getLsbD 7 = (rdataAt (s8 [0xFF, 0x7F]) i).getLsbD 7) ∧
    (∀ i, (s8 [0x80, 0x05]).mode = .m4 →
      (rdataAt (s8 [0x80, 0x05]) (2 * i)).getLsbD 3 = (rdataAt (s8 [0xFF, 0x7F]) (2 * i)).getLsbD 3) := by
  refine ⟨rfl, rfl, fun i _ => ?_, fun i h => by cases h⟩
  match i with
  | 0 => rfl
  | 1 => rfl
  | _ + 2 => rfl
theorem witness_RetryCeilingZeroIsRefused : (s8n 0 []).cfg.busyRetryMax = 0 := rfl
/-- The four outcomes of INIT_CTRL in each width (T60 to T63, T65 to T68). -/
theorem witness_InitCtrlEventCounts :
    (pollOk .m8 2 (rdataAt (s8 [0, 0, 0])) = true ∧ pollOk .m8 2 (fun i => rdataAt (s8 [0, 0, 0]) (1 + i)) = true ∧
      pollOk .m8 2 (fun i => rdataAt (s8 [0, 0, 0]) (1 + (1 + i))) = true) ∧
    pollOk .m8 2 (rdataAt (s8 [0x80, 0x80])) = false ∧
    (pollOk .m8 2 (rdataAt (s8 [0, 0x80, 0x80])) = true ∧
      pollOk .m8 2 (fun i => rdataAt (s8 [0, 0x80, 0x80]) (1 + i)) = false) ∧
    pollOk .m8 2 (fun i => rdataAt (s8 [0, 0, 0x80, 0x80]) (1 + (1 + i))) = false ∧
    pollOk .m4 2 (rdataAt (s4 [0, 0, 0, 0, 0, 0])) = true ∧ pollOk .m4 2 (rdataAt (s4 [0x8, 0, 0x8, 0])) = false ∧
    (pollOk .m4 2 (rdataAt (s4 [0, 0, 0x8, 0, 0x8, 0])) = true ∧
      pollOk .m4 2 (fun i => rdataAt (s4 [0, 0, 0x8, 0, 0x8, 0]) (2 + i)) = false) ∧
    pollOk .m4 2 (fun i => rdataAt (s4 [0, 0, 0, 0, 0x8, 0, 0x8, 0]) (2 + (2 + i))) = false := by decide
/-- INIT_CTRL in M8 at state `x`, its event j and place i, with the last sample `v` taken of k. -/
def initAt (x : InitState) (j i k : Nat) (v : Byte) : State :=
  { s8 [] with seq := .run .initCtrl 0 j i 0, is := x, sample := v, k := k }
/-- Within a state, on to the next, on after a ready poll, out on TIMEOUT, out at the end (positions of T60 and T62), and before
INIT. -/
theorem witness_InitFsmHasNoOtherTransition :
    see (step (initAt .fs1 0 0 0 0)) (fun t => (t.seq, t.is)) = some (.run .initCtrl 0 1 1 0, .fs1) ∧
    see (step (initAt .fs1 7 7 0 0)) (fun t => (t.seq, t.is)) = some (.run .initCtrl 0 8 0 0, .d1) ∧
    see (step (initAt .dcP 30 4 1 0)) (fun t => (t.seq, t.is)) = some (.run .initCtrl 0 31 0 0, .clr) ∧
    see (step (initAt .clrP 44 5 2 0x80)) (fun t => (t.seq, t.rspStatus)) = some (.idle, .timeout) ∧
    see (step (initAt .emP 56 4 1 0)) (fun t => (t.seq, t.rspStatus)) = some (.idle, .ok) ∧
    see (step { s0 with seq := .run .initCtrl 0 0 0 0 }) (fun t => (t.seq, t.rspStatus)) = some (.idle, .notInit) := by decide
theorem witness_PortSessionEvents : (5 : Byte) ≠ 4 ∧ (5 : Byte) ≠ 8 := by decide
theorem witness_ControlLineEvents : (s8 []).mode ≠ .undef := by decide
theorem witness_DirectionEvents : (s4 []).mode = .m4 ∧ (s8 []).mode = .m8 := by decide
/-- The widest nibble, and the first value above it. -/
theorem witness_OutputEvents : (s4 []).mode = .m4 ∧ (0x0F : Byte).toNat ≤ 15 ∧ 15 < (0x10 : Byte).toNat := by decide
/-- M4 and M8 with the direction OUT. -/
theorem witness_InputEvents :
    (let s := { s4 [] with lines := { (s4 []).lines with dir4 := .output } }
     s.mode = .m4 ∧ s.lines.dir4 ≠ .input) ∧
    (let s := { s8 [] with lines := { (s8 []).lines with dir8 := .output } }
     s.mode = .m8 ∧ s.lines.dir8 ≠ .input) := by decide
theorem witness_DelayEvent : (s4 []).mode ≠ .undef ∧ s0.mode = .undef := by decide
/-- A violation outside a session, one of width, and events that run. -/
theorem witness_EventsFaultExactlyOnContractViolations :
    Instr.in8 ∈ [Instr.portDeinit, .out4 0x10, .in8] ∧ s0.mode = .undef ∧ (s4 []).mode = .m4 ∧ (0x10 : Byte).toNat = 16 ∧
    goes (exec .in8 (s8 [])) = true ∧ goes (exec (.out4 0xF) (s4 [])) = true := by decide
theorem witness_LcdCodesAreTheirWriteCycles : (s8 []).mode = .m8 ∧ (s4 []).mode = .m4 ∧ s0.mode = .undef := by decide
theorem witness_PseudoIsWriteThenPoll :
    1 ≤ (s8 []).cfg.busyRetryMax ∧ busReadable (s8 []) ∧ (s8 []).rspReady = true ∧ s0.mode = .undef ∧ s0.rspReady = true ∧
    { s8 [] with rspReady := false }.rspReady = false ∧ (s8 []).mode ≠ .undef :=
  ⟨by decide, .inl ⟨rfl, rfl⟩, rfl, rfl, rfl, rfl, by decide⟩
theorem witness_OnlyInitAndDeinitWriteMode :
    (∀ arg, Instr.setRs ≠ .init arg) ∧ (∀ arg, Instr.setRs ≠ .deinit arg) ∧ goes (exec .setRs (s8 [])) = true :=
  ⟨by simp, by simp, by decide⟩
/-- FAULT kept by an idle step, set by a stub, set by a contract fault, cleared by a reset. -/
theorem witness_FaultIsStickyAndHasTwoCauses :
    see (step { s0 with fault := true }) (fun t => t.fault) = some true ∧
    see (step { s0 with seq := .run .waitBusy 0 0 0 0 }) (fun t => (t.fault, t.rspStatus)) = some (true, .notInit) ∧
    see (exec (.reserved9 0) s0) (fun t => t.rspStatus) = some .contract ∧ s0.cfg.busyRetryMax ≠ 0 ∧
    see (step { s0 with resetReq := true, fault := true }) (fun t => t.fault) = some false := by decide
theorem witness_OnlyPollsTimeOut :
    decode (.command 0x700) = .ok (.waitBusy 0) ∧
    see (exec (.waitBusy 0) (s8n 1 [0x80])) (fun t => t.rspStatus) = some .timeout ∧
    decode (.command 0x800) = .ok (.initCtrl 0) ∧
    see (exec (.initCtrl 0) (s8n 1 [0x80])) (fun t => t.rspStatus) = some .timeout := by decide
/-- A step that emits an event, one that delivers a response, one of the 4-bit width. -/
theorem witness_TraceAndResponsesOnlyGrow :
    see (step { s8 [] with seq := .run .readInstr 0 0 0 0 }) (fun t => t.trace.length) = some 1 ∧
    see (step { s8 [] with rspValid := true }) (fun t => t.delivered.length) = some 1 ∧
    see (step { s4 [0x8] with seq := .run .readInstr 0 3 3 0 }) (fun t => t.trace) = some [in4Event 0x8] := by decide
theorem witness_ConfigurationNeverChanges : goes (step s0) = true := by decide
theorem witness_EventsHaveTheBoundWidth : goes (step { s8 [] with seq := .run .writeInstr 0x3C 3 3 0 }) = true := by decide
theorem witness_StepRunsTheDecodedInstruction :
    let s := { s8 [] with pace := .command, queue := [.command 0x33C] }
    s.cfg.busyRetryMax ≠ 0 ∧ s.resetReq = false ∧ s.rspValid = false ∧ s.seq = .idle ∧ s.pace = .command ∧
    s.queue = [.command 0x33C] ∧ decode (.command 0x33C) = .ok (.writeInstr 0x3C) := by decide
/-- A command, INIT_CTRL, a reserved OP at each end of its range, and a pair. -/
theorem witness_AcceptingStartsTheSequencer :
    see (step { s4 [] with queue := [.command (Op.waitBusy.code ++ (0 : Byte))] }) (fun t => t.seq) =
      some (.run .waitBusy 0 0 0 0) ∧
    see (step { s4 [] with queue := [.command 0x800] }) (fun t => (t.seq, t.is)) = some (.run .initCtrl 0 0 0 0, .pre) ∧
    see (step { s0 with queue := [.command 0x000] }) (fun t => t.seq) = some (.run (.reserved 0x0) 0 0 0 0) ∧
    see (step { s0 with queue := [.command 0x9AB] }) (fun t => t.seq) = some (.run (.reserved 0x9) 0xAB 0 0 0) ∧
    see (step { s8 [] with queue := [.commandPair 0x441 0x700] }) (fun t => (t.seq, t.queue)) =
      some (.run .writeData 0x41 0 0 0, [.command 0x700]) := by decide
/-- SAMPLE was 0xEE: it stays at an IN and changes with the last CLR_CE. -/
theorem witness_ReadsWriteSampleAfterTheirLastEvent :
    see (step { s8 [0x41] with seq := .run .readData 0 3 3 0, sample := 0xEE }) (fun t => (t.sample, t.seq)) =
      some (0xEE, .run .readData 0 4 4 0x41) ∧
    see (step { s8 [] with seq := .run .readData 0 4 4 0x41, sample := 0xEE }) (fun t => (t.sample, t.rspData)) =
      some (0x41, 0x41) ∧
    see (step { s4 [0x8] with seq := .run .readInstr 0 3 3 0, sample := 0xEE }) (fun t => (t.hi, t.sample)) = some (0x8, 0xEE) ∧
    see (step { s4 [0x3] with seq := .run .readInstr 0 6 6 8, hi := 0x8, sample := 0xEE }) (fun t => (t.hi, t.sample, t.seq)) =
      some (0x8, 0xEE, .run .readInstr 0 7 7 0x03) ∧
    see (step { s4 [] with seq := .run .readInstr 0 7 7 0x03, hi := 0x8, sample := 0xEE }) (fun t => (t.sample, t.rspData)) =
      some (0x83, 0x83) := by decide
/-- N = 2. In M8 the first sample, another after a busy one, and the end, ready or at the ceiling; in M4 each nibble, then a busy
pair, the pair at the ceiling, and a ready pair. -/
theorem witness_PollsWriteSampleWhereTheLoopDoes :
    see (step { s8 [0x80] with seq := .run .waitBusy 0 3 3 0 }) (fun t => (t.sample, t.k)) = some (0x80, 1) ∧
    see (step { s8 [0x05] with seq := .run .waitBusy 0 4 4 0, sample := 0x80, k := 1 }) (fun t => (t.sample, t.k)) =
      some (0x05, 2) ∧
    see (step { s8 [] with seq := .run .waitBusy 0 4 4 0, sample := 0x05, k := 1 }) outcome = some ([ev .clrCe], .ok, 0) ∧
    see (step { s8 [] with seq := .run .waitBusy 0 5 5 0, sample := 0x80, k := 2 }) outcome =
      some ([ev .clrCe], .timeout, 0) ∧
    see (step { s4 [0x8] with seq := .run .waitBusy 0 3 3 0 }) (fun t => (t.hi, t.sample)) = some (0x8, 0x00) ∧
    see (step { s4 [0x5] with seq := .run .waitBusy 0 12 12 0, hi := 0x8 }) (fun t => (t.hi, t.sample, t.k)) =
      some (0x8, 0x00, 0) ∧
    see (step { s4 [] with seq := .run .waitBusy 0 7 7 5, hi := 0x8 }) (fun t => (t.sample, t.k, t.seq)) =
      some (0x85, 1, .run .waitBusy 0 8 8 5) ∧
    see (step { s4 [] with seq := .run .waitBusy 0 13 13 5, hi := 0x8, k := 1 }) outcome = some ([ev .clrCe], .timeout, 0) ∧
    see (step { s4 [] with seq := .run .waitBusy 0 7 7 5, hi := 0x0 }) outcome = some ([ev .clrCe], .ok, 0) := by decide
theorem witness_ResponseHandshake :
    let s := { s8 [] with rspValid := true, rspReady := false }
    s.cfg.busyRetryMax ≠ 0 ∧ s.resetReq = false ∧ s.rspValid = true ∧ s.rspReady = false ∧ (s8 []).rspReady = true := by decide
theorem witness_IdleBlockWaits : s0.rspValid = false ∧ s0.seq = .idle ∧ s0.queue = [] ∧ s0.resetReq = false := by decide
theorem witness_ResetAbandonsTheCommand :
    let s := { s8 [] with resetReq := true, seq := .run .writeInstr 0x3C 3 3 0 }
    s.cfg.busyRetryMax ≠ 0 ∧ s.resetReq = true := by decide

/-! ### States that meet the invariant -/

/-- S8 and S4, with words offered. -/
theorem idle_states_meet_the_invariant : BlockInv { s8 [] with queue := [.command 0x700] } ∧ BlockInv (s4 []) :=
  ⟨⟨rfl, by decide, by simp [fromHost], rfl, rfl, rfl, rfl, rfl, .inl rfl, trivial⟩,
    ⟨rfl, by decide, by simp [s4, s4n, State.reset], rfl, rfl, rfl, rfl, rfl, .inl rfl, trivial⟩⟩

/-- T39's state: the sixth event of `wrd 0x41` in M8 is next. -/
def midWrite8 : State :=
  { s8 [] with
    seq := .run .writeData 0x41 5 5 0
    lines := { rs := .high, rw := .low, ce := .high, dir4 := .u, dir8 := .output, dout := .byte 0x41 } }

/-- `wri 0x3C` in M4 (T34), before the CLR_CE of its second pulse. -/
def midWrite4 : State :=
  { s4 [] with
    seq := .run .writeInstr 0x3C 8 8 0
    lines := { rs := .low, rw := .low, ce := .high, dir4 := .output, dir8 := .u, dout := .nibble 0xC } }

/-- INIT_CTRL in M4, before the CLR_CE of PRELIM. -/
def midPrelim : State :=
  { s4 [] with
    seq := .run .initCtrl 0 5 5 0
    is := .pre
    lines := { rs := .low, rw := .low, ce := .high, dir4 := .output, dir8 := .u, dout := .nibble 0x3 } }

/-- A poll in M8 with one busy sample taken, and the second to come. -/
def midPoll8 : State :=
  { s8 [0x05] with
    seq := .run .waitBusy 0 4 4 0
    k := 1
    sample := 0x80
    lines := { rs := .low, rw := .high, ce := .high, dir4 := .u, dir8 := .input, dout := .u } }

theorem midWrite8_meets_the_invariant : BlockInv midWrite8 :=
  ⟨rfl, by decide, by simp [midWrite8, s8, s8n, State.reset], rfl, .inr ⟨rfl, by decide, by decide, show 5 < 8 by decide, by decide, by decide,
    (s8 []).lines, ⟨rfl, rfl, rfl, rfl, .inl rfl, trivial⟩, by decide⟩⟩

theorem midWrite4_meets_the_invariant : BlockInv midWrite4 :=
  ⟨rfl, by decide, by simp [midWrite4, s4, s4n, State.reset], rfl, .inr ⟨rfl, by decide, by decide, show 8 < 11 by decide, by decide, by decide,
    (s4 []).lines, ⟨rfl, rfl, rfl, rfl, .inl rfl, trivial⟩, by decide⟩⟩

theorem midPrelim_meets_the_invariant : BlockInv midPrelim :=
  ⟨rfl, by decide, by simp [midPrelim, s4, s4n, State.reset], rfl, .inr ⟨rfl, by decide, by decide, show 5 < 8 by decide, by decide, by decide,
    (s4 []).lines, ⟨rfl, rfl, rfl, rfl, .inl rfl, trivial⟩, by decide⟩⟩

theorem midPoll8_meets_the_invariant : BlockInv midPoll8 :=
  ⟨rfl, by decide, by simp [midPoll8, s8, s8n, State.reset], rfl, .inr ⟨rfl, by decide, by decide, fun _ => rfl, by decide, by decide,
    (s8 []).lines, ⟨rfl, rfl, rfl, rfl, .inl rfl, trivial⟩, by decide⟩⟩

/-- WAIT_BUSY accepted before INIT, to be turned away. -/
def turnedAwayBeforeInit : State := { s0 with seq := .run .waitBusy 0 0 0 0 }

theorem turnedAwayBeforeInit_meets_the_invariant : BlockInv turnedAwayBeforeInit :=
  ⟨rfl, by decide, by simp [turnedAwayBeforeInit, s0, State.reset], rfl, .inl ⟨rfl, rfl, rfl, rfl, rfl⟩⟩

theorem witness_OneEventPerStepOfARunningCommand :
    turnedAway .writeData 0x41 midWrite8 = false ∧ midWrite8.resetReq = false ∧
    turnedAway .waitBusy 0 turnedAwayBeforeInit = true ∧ turnedAwayBeforeInit.seq = .run .waitBusy 0 0 0 0 := by decide
/-- Reserved, a bad width, INIT in a session, and a command before INIT. -/
theorem witness_TurnedAwayCommandsAnswerWithoutEvents :
    see (step { s8 [] with seq := .run (.reserved 0x9) 0xAB 0 0 0 }) outcome = some ([], .contract, 0x00) ∧
    see (step { s0 with seq := .run .init 5 0 0 0 }) outcome = some ([], .contract, 0x00) ∧
    see (step { s8 [] with seq := .run .init 4 0 0 0 }) outcome = some ([], .contract, 0x00) ∧
    see (step turnedAwayBeforeInit) outcome = some ([], .notInit, 0xFF) := by decide

/-- Also for EveryStepKeepsTheInvariant, TheBlockNeverViolatesThePortContract and OneEventPerStepOfARunningCommand. -/
theorem witness_LatchInvariantAtEveryEdge :
    (isWriting .writeData midWrite8.is = true ∧ see (step midWrite8) (fun t => t.trace) = some [ev .clrCe]) ∧
    (isWriting .writeInstr midWrite4.is = true ∧ see (step midWrite4) (fun t => t.trace) = some [ev .clrCe]) ∧
    (isWriting .initCtrl midPrelim.is = true ∧ see (step midPrelim) (fun t => t.trace) = some [ev .clrCe]) ∧
    see (step midPoll8) (fun t => t.trace) = some [in8Event 0x05] ∧
    (midWrite8.seq = .run .writeData 0x41 5 5 0 ∧ midWrite8.resetReq = false) := by decide
/-- With `idle_states_meet_the_invariant`: WAIT_BUSY offered in S8. -/
theorem witness_EventStepsReachTheCommandsMeaning :
    let s := { s8 [] with queue := [.command 0x700] }
    s.seq = .idle ∧ s.rspValid = false ∧ s.resetReq = false ∧ s.pace = .event ∧ s.queue = [.command 0x700] ∧
    decode (.command 0x700) = .ok (.waitBusy 0) := by decide

/-! ### The reference host -/

/-- T90: corners within bounds, and each clamp. -/
theorem witness_GotoXyAddress :
    ((0 : Int) ≤ 39 ∧ (39 : Int) < 40 ∧ (0 : Int) ≤ 3 ∧ (3 : Int) < 4) ∧ ((-1 : Int) < 0 ∨ (16 : Int) ≤ -1) ∧
    ((2 : Int) < 0 ∨ (2 : Int) ≤ 2) ∧ (1 : Int) ≤ 16 ∧ (1 : Int) ≤ 2 := by decide
/-- Before anything, ready without a geometry, and a geometry that is not usable. -/
theorem witness_HostProgramsNeedSetupAndInit :
    DriverState.start.ready = false ∧ DriverState.start.geometry = none ∧
    (∀ g, (⟨some ⟨0, 2⟩, true, true⟩ : DriverState).geometry = some g → g.width < 1 ∨ g.height < 1) ∧
    (∀ w h, DriverCall.clear ≠ .setupScreenDimensions w h) :=
  ⟨rfl, rfl, by intro g h; cases h; exact .inl (by decide), by simp⟩
theorem witness_PutcAndPutsOffer :
    (⟨none, true, true⟩ : DriverState).ready = true ∧ (1 : Int) ≤ 4 ∧ (1 : Int) ≤ 1 ∧ ([0x48] : List Byte) ≠ [] := by decide

end Sys2Proof.Tests
end

/-! # FAULT

The sticky contract flag (10_state.md R32): what each instruction and each step does to it. -/

namespace Sys2Proof.Machine

/-! ## Everything a step can answer next -/

theorem step_eq_next {s t : State} (h : step s = .next t) :
    s.resetReq = true ∧ t = powerOnReset s ∨ s.resetReq = false ∧ advance s = .next t := by
  unfold step oneStep at h
  split at h
  · cases h
  · split at h
    · next hr =>
      cases h
      exact .inl ⟨hr, rfl⟩
    · next hr => exact .inr ⟨by simpa using hr, h⟩

theorem advance_eq_next {s t : State} (h : advance s = .next t) :
    s.rspValid = true ∧ (t = takeResponse s ∨ t = s) ∨
    s.rspValid = false ∧
      ((∃ op arg j i bound, s.seq = .run op arg j i bound ∧ tick op arg j i bound s = .next t) ∨
        s.seq = .idle ∧ fetch s = .next t) := by
  unfold advance at h
  split at h
  · next hv =>
    refine .inl ⟨hv, ?_⟩
    split at h
    · cases h
      exact .inl rfl
    · cases h
      exact .inr rfl
  · next hv =>
    refine .inr ⟨by simpa using hv, ?_⟩
    split at h
    · next op arg j i bound hs => exact .inl ⟨op, arg, j, i, bound, hs, h⟩
    · next hs => exact .inr ⟨hs, h⟩

theorem fetch_eq_next {s t : State} (h : fetch s = .next t) :
    s.queue = [] ∧ t = s ∨
    ∃ p rest i, s.queue = p :: rest ∧ decode p = .ok i ∧ runOffered i { s with queue := rest } = .next t := by
  unfold fetch at h
  split at h
  · next hq =>
    cases h
    exact .inl ⟨hq, rfl⟩
  · next p rest hq =>
    split at h
    · next i hd => exact .inr ⟨p, rest, i, hq, hd, h⟩
    · cases h

theorem runOffered_eq_next {i : Instr} {s t : State} (h : runOffered i s = .next t) :
    s.pace = .event ∧ accept i s = some t ∨ exec i s = .next t := by
  unfold runOffered at h
  split at h
  · exact .inr h
  · next hp =>
    split at h
    · next ha =>
      cases h
      exact .inl ⟨hp, ha⟩
    · exact .inr h

/-- Every command word is accepted, reserved OPs too (30_encoding.md R90, R73). -/
theorem accept_decodeCommand_isSome (w : CmdWord) (s : State) : (accept (decodeCommand w) s).isSome = true := by
  unfold decodeCommand
  split <;> rfl

/-- Accepting a command begins it; of a pair the second word is put back into the queue (R88). -/
theorem accept_eq_some {i : Instr} {s t : State} (h : accept i s = some t) :
    ∃ op arg queue, t = beginCommand op arg { s with queue := queue } := by
  unfold accept at h
  split at h <;> cases h <;> exact ⟨_, _, _, rfl⟩

@[simp] theorem beginCommand_fault (op : Op) (arg : Byte) (s : State) : (beginCommand op arg s).fault = s.fault := by
  cases op <;> rfl

theorem accept_fault {i : Instr} {s t : State} (h : accept i s = some t) : t.fault = s.fault := by
  obtain ⟨op, arg, queue, rfl⟩ := accept_eq_some h
  simp

/-! ## A response and the flag it sets -/

/-- The two statuses that come with `FAULT <- 1` (R32). -/
def Status.setsFault (st : Status) : Bool :=
  match st with
  | .contract | .notInit => true
  | .ok | .timeout => false

theorem Status.setsFault_iff (st : Status) : st.setsFault = true ↔ st = .contract ∨ st = .notInit := by
  cases st <;> simp [Status.setsFault]

@[simp] theorem pollStatus_setsFault (s : State) : (pollStatus s).setsFault = false := by
  unfold pollStatus
  split <;> rfl

/-- A response waits in t, and FAULT is what it was in s or what that response sets. -/
structure Answered (s t : State) : Prop where
  rspValid : t.rspValid = true
  fault : t.fault = (s.fault || t.rspStatus.setsFault)

theorem raiseContractFault_answered (s : State) : Answered s (raiseContractFault s) :=
  ⟨rfl, by simp [Status.setsFault]⟩

theorem notInitStub_answered (s : State) : Answered s (notInitStub s) :=
  ⟨rfl, by simp [Status.setsFault]⟩

theorem respond_answered {st : Status} {d : Byte} {s u : State} (hf : u.fault = s.fault)
    (hs : st.setsFault = false) : Answered s (respond st d u) :=
  ⟨rfl, by simp [hf, hs]⟩

/-! ## Every instruction -/

theorem execInit_answered {arg : Byte} {s t : State} (h : execInit arg s = .next t) : Answered s t := by
  unfold execInit at h
  split at h
  · cases h
    exact raiseContractFault_answered s
  · split at h
    · cases h
      exact raiseContractFault_answered s
    · obtain ⟨u, hu, h⟩ := andThen_eq_next h
      cases h
      exact respond_answered (emit_kept hu).fault rfl

theorem execDeinit_answered {s t : State} (arg : Byte) (h : execDeinit arg s = .next t) : Answered s t := by
  obtain ⟨u, hu, h⟩ := andThen_eq_next h
  cases h
  exact respond_answered (emit_kept hu).fault rfl

/-- A command of the operation set answers if it does so in a session: before INIT the stub answers (R131). -/
theorem inSession_answered {s t : State} {r : Result} (h : inSession s r = .next t)
    (hr : s.mode ≠ .undef → Answered s t) : Answered s t := by
  by_cases hm : s.mode = .undef
  · rw [inSession_undef hm] at h
    cases h
    exact notInitStub_answered s
  · exact hr hm

theorem writeCommand_answered {rs : Bool} {v : Byte} {s t : State} (h : writeCommand rs v s = .next t) :
    Answered s t :=
  inSession_answered h fun hm => by
    obtain ⟨u, hu, rfl⟩ := writeCommand_kept hm h
    exact respond_answered hu.fault rfl

theorem readCommand_answered {rs : Bool} {s t : State} (h : readCommand rs s = .next t) : Answered s t :=
  inSession_answered h fun hm => by
    obtain ⟨u, hu, rfl⟩ := readCommand_kept hm h
    exact respond_answered hu.fault rfl

theorem pollCommand_answered {s t : State} (h : pollCommand s = .next t) : Answered s t :=
  inSession_answered h fun hm => by
    obtain ⟨u, hu, rfl⟩ := pollCommand_kept hm h
    exact respond_answered hu.fault (pollStatus_setsFault u)

theorem execInitCtrl_answered {s t : State} (arg : Byte) (h : execInitCtrl arg s = .next t) : Answered s t :=
  inSession_answered h fun hm => by
    obtain ⟨u, hu, rfl⟩ := execInitCtrl_polled hm h
    exact respond_answered hu.fault (pollStatus_setsFault u)

/-- A write and a poll answer as the poll does: a write that sets FAULT is the stub, and so is the poll after it (R131). -/
theorem checkedCommand_answered {rs : Bool} {v : Byte} {s t : State} (h : checkedCommand rs v s = .next t) :
    Answered s t := by
  obtain ⟨u, hu, h⟩ := andThen_eq_next h
  split at h
  · by_cases hm : s.mode = .undef
    · rw [writeCommand, inSession_undef hm] at hu
      cases hu
      rw [pollCommand, inSession_undef (by simpa using hm)] at h
      cases h
      exact ⟨rfl, by simp [Status.setsFault]⟩
    · obtain ⟨w, hw, rfl⟩ := writeCommand_kept hm hu
      have hpoll := pollCommand_answered h
      exact ⟨hpoll.rspValid, by simpa [hw.fault] using hpoll.fault⟩
  · have hwrite := writeCommand_answered hu
    cases h
    exact ⟨hwrite.rspValid, hwrite.fault⟩

/-- An instruction answers with a response, or it is no command and is bus activity alone. -/
theorem exec_answered_or_kept {i : Instr} {s t : State} (h : exec i s = .next t) :
    Answered s t ∨ accept i s = none ∧ Kept s t := by
  cases i with
  | init => exact .inl (execInit_answered h)
  | deinit arg => exact .inl (execDeinit_answered arg h)
  | writeInstr | writeData | setDdram => exact .inl (writeCommand_answered h)
  | readInstr | readData => exact .inl (readCommand_answered h)
  | waitBusy => exact .inl (pollCommand_answered h)
  | initCtrl arg => exact .inl (execInitCtrl_answered arg h)
  | reserved0 | reserved9 | reservedA | reservedB | reservedC | reservedD | reservedE | reservedF =>
    cases h
    exact .inl (raiseContractFault_answered s)
  | cwri | cwrd => exact .inl (checkedCommand_answered h)
  | portInit | portDeinit | setRs | clrRs | setRw | clrRw | setCe | clrCe | dirIn4 | dirIn8 | dirOut4 | dirOut8
  | out4 | out8 | in4 | in8 | delay =>
    rw [exec] at h
    exact .inr ⟨rfl, emit_kept h⟩
  | funcset8 | dispctrl | clear | entry | prelim | funcset4 => exact .inr ⟨rfl, emitAll_kept h⟩

/-- Every command word's instruction answers with a response (30_encoding.md R75). -/
theorem exec_command_answered {w : CmdWord} {i : Instr} {s t : State} (hd : decode (.command w) = .ok i)
    (h : exec i s = .next t) : Answered s t := by
  cases hd
  rcases exec_answered_or_kept h with ha | ⟨hnone, -⟩
  · exact ha
  · have := accept_decodeCommand_isSome w s
    rw [hnone] at this
    cases this

/-! ## Every step -/

/-- FAULT stays, or the response now waiting accounts for it. -/
def FaultFollows (s t : State) : Prop := t.fault = s.fault ∨ Answered s t

/-- Of the state before, FAULT alone matters. -/
theorem FaultFollows.of_fault_eq {s s' t : State} (h : FaultFollows s' t) (hs : s'.fault = s.fault) :
    FaultFollows s t :=
  h.imp (·.trans hs) fun ha => ⟨ha.rspValid, by rw [ha.fault, hs]⟩

theorem answered_finishInitCtrl (s : State) : Answered s (finishInitCtrl s) :=
  respond_answered rfl (pollStatus_setsFault s)

theorem afterTailPoll_faultFollows (x : InitState) (arg : Byte) (j : Nat) (s : State) :
    FaultFollows s (afterTailPoll x arg j s) := by
  unfold afterTailPoll
  split
  · exact .inr (answered_finishInitCtrl s)
  · exact .inl rfl

theorem initTransition_faultFollows (arg : Byte) (j : Nat) (s : State) : FaultFollows s (initTransition arg j s) := by
  unfold initTransition
  cases s.is with
  | idle | emP => exact .inr (answered_finishInitCtrl s)
  | dcP | clrP => exact afterTailPoll_faultFollows _ arg j s
  | pre | fs1 | d1 | fs2 | d2 | dc | clr | em => exact .inl rfl

theorem completePart_faultFollows (op : Op) (arg : Byte) (j : Nat) (s : State) :
    FaultFollows s (completePart op arg j s) := by
  cases op with
  | init | deinit | writeInstr | writeData | readInstr | readData => exact .inr (respond_answered rfl rfl)
  | waitBusy => exact .inr (respond_answered rfl (pollStatus_setsFault s))
  | initCtrl => exact initTransition_faultFollows arg j s
  | reserved => exact .inr (raiseContractFault_answered s)

theorem nextStep_faultFollows {op : Op} {arg : Byte} {j i : Nat} {bound : Byte} {s t : State}
    (h : nextStep op arg j i bound s = .next t) : FaultFollows s t := by
  obtain ⟨e, u, -, -, hu, hend⟩ := nextStep_eq_next h
  have hfault : u.fault = s.fault := by
    rw [hu, afterEvent_eq _ _ _ _ _ (·.fault) fun _ _ _ _ => rfl, perform_fault]
  rcases hend with ⟨-, rfl⟩ | ⟨-, rfl⟩
  · exact (completePart_faultFollows op arg (j + 1) u).of_fault_eq hfault
  · exact .inl hfault

theorem tick_faultFollows {op : Op} {arg : Byte} {j i : Nat} {bound : Byte} {s t : State}
    (h : tick op arg j i bound s = .next t) : FaultFollows s t := by
  rcases tick_eq_next h with hrej | ⟨-, hnext⟩
  · rcases rejection_eq_some hrej with rfl | ⟨-, rfl⟩
    · exact .inr (raiseContractFault_answered s)
    · exact .inr (notInitStub_answered s)
  · exact nextStep_faultFollows hnext

theorem runOffered_faultFollows {i : Instr} {s t : State} (h : runOffered i s = .next t) : FaultFollows s t := by
  rcases runOffered_eq_next h with ⟨-, ha⟩ | he
  · exact .inl (accept_fault ha)
  · rcases exec_answered_or_kept he with ha | ⟨-, hk⟩
    · exact .inr ha
    · exact .inl hk.fault

theorem fetch_faultFollows {s t : State} (h : fetch s = .next t) : FaultFollows s t := by
  rcases fetch_eq_next h with ⟨-, rfl⟩ | ⟨p, rest, i, -, -, hrun⟩
  · exact .inl rfl
  · exact (runOffered_faultFollows hrun).of_fault_eq rfl

theorem advance_faultFollows {s t : State} (h : advance s = .next t) : FaultFollows s t := by
  rcases advance_eq_next h with ⟨-, rfl | rfl⟩ | ⟨-, ⟨op, arg, j, i, bound, -, htick⟩ | ⟨-, hfetch⟩⟩
  · exact .inl rfl
  · exact .inl rfl
  · exact tick_faultFollows htick
  · exact fetch_faultFollows hfetch

theorem advance_keeps_fault {s t : State} (h : advance s = .next t) (hf : s.fault = true) : t.fault = true := by
  rcases advance_faultFollows h with hsame | ha
  · rw [hsame, hf]
  · simp [ha.fault, hf]

/-- A step that sets FAULT leaves the response that did it waiting (R32). -/
theorem step_setting_fault_answers {s t : State} (h : step s = .next t) (hs : s.fault = false) (ht : t.fault = true) :
    t.rspValid = true ∧ (t.rspStatus = .contract ∨ t.rspStatus = .notInit) := by
  rcases step_eq_next h with ⟨-, rfl⟩ | ⟨-, hadv⟩
  · cases ht
  · rcases advance_faultFollows hadv with hsame | ha
    · rw [hsame, hs] at ht
      cases ht
    · refine ⟨ha.rspValid, t.rspStatus.setsFault_iff.1 ?_⟩
      simpa [ha.fault, hs] using ht

/-- Settles O34: a response accounts for every change of FAULT but a reset's. -/
theorem faultIsStickyAndHasTwoCauses : Obligations.FaultIsStickyAndHasTwoCauses := by
  refine ⟨fun s t hr h hf => ?_, fun s t => step_setting_fault_answers, fun w i s t hd h hst => ?_, fun s hN hr => ?_⟩
  · rcases step_eq_next h with ⟨hr', -⟩ | ⟨-, hadv⟩
    · rw [hr] at hr'
      cases hr'
    · exact advance_keeps_fault hadv hf
  · simp [(exec_command_answered hd h).fault, t.rspStatus.setsFault_iff.2 hst]
  · have hvalid : s.cfg.valid = true := (config_valid_iff s.cfg).2 (Nat.one_le_iff_ne_zero.2 hN)
    exact ⟨powerOnReset s, step_of_reset hvalid hr, rfl⟩

end Sys2Proof.Machine

/-! # Output events

OUT4 and OUT8 (40_port.md R113, R114) as instructions: the violations R118 lists for them, and what they write when there
is none. -/

namespace Sys2Proof.Machine

/-- A port contract violation stops the emission with its own fault (R118). -/
theorem emit_of_violation {op : PortOp} {s : State} {x : Fault} (h : violation op s = some x) :
    emit op s = .fault x := by
  simp [emit, h]

@[simp] theorem needMode_same {m : Mode} {s : State} (h : s.mode = m) : needMode m s = none := if_pos h

@[simp] theorem needMode_other {m : Mode} {s : State} (h : s.mode ≠ m) : needMode m s = some .wrongWidth := if_neg h

/-! ## What is a violation -/

theorem violation_out4_m4 (n : Byte) {s : State} (h : s.mode = .m4) :
    violation (.out4 n) s = if n.toNat ≤ 15 then none else some .outValueTooWide := by
  simp [violation, h]

theorem violation_out4_m8 (n : Byte) {s : State} (h : s.mode = .m8) : violation (.out4 n) s = some .wrongWidth := by
  simp [violation, h]

theorem violation_out8_m8 (v : Byte) {s : State} (h : s.mode = .m8) : violation (.out8 v) s = none := by
  simp [violation, h]

theorem violation_out8_m4 (v : Byte) {s : State} (h : s.mode = .m4) : violation (.out8 v) s = some .wrongWidth := by
  simp [violation, h]

/-! ## What is written -/

theorem exec_out4 (n : Byte) (s : State) : exec (.out4 n) s = emit (.out4 n) s := rfl

theorem exec_out8 (v : Byte) (s : State) : exec (.out8 v) s = emit (.out8 v) s := rfl

/-- OUT4 writes the latch and the trace alone (R113). -/
theorem perform_out4 (n : Byte) (s : State) :
    perform (.out4 n) s =
      { s with lines := { s.lines with dout := .nibble (lowNibble n) }, trace := s.trace ++ [ev (.out4 n)] } := rfl

/-- OUT8 writes the latch and the trace alone (R114). -/
theorem perform_out8 (v : Byte) (s : State) :
    perform (.out8 v) s =
      { s with lines := { s.lines with dout := .byte v }, trace := s.trace ++ [ev (.out8 v)] } := rfl

/-- Settles O27: each clause is one emission, performed or stopped by its violation. -/
theorem outputEvents : Obligations.OutputEvents := by
  intro n v s
  rw [exec_out4, exec_out8]
  refine ⟨fun h4 hn => ?_, fun h4 hn => ?_, fun h8 => ?_, fun h8 => ?_, fun h4 => ?_⟩
  · rw [emit_of_legal (by rw [violation_out4_m4 n h4, if_pos hn]), perform_out4, lowNibble]
  · exact emit_of_violation (by rw [violation_out4_m4 n h4, if_neg (Nat.not_le.2 hn)])
  · rw [emit_of_legal (violation_out8_m8 v h8), perform_out8]
  · exact emit_of_violation (violation_out4_m8 n h8)
  · exact emit_of_violation (violation_out8_m4 v h4)

end Sys2Proof.Machine

/-! # Command words

What R73 and R74 (30_encoding.md) say of OP and ARG: the reserved OPs decode to contract faults, and five commands take no
notice of ARG. -/

namespace Sys2Proof.Machine

/-! ## Reserved OPs -/

/-- The instructions of the reserved OPs 0x0 and 0x9 to 0xF with one ARG (R73). -/
def reservedInstrs (arg : Byte) : List Instr :=
  [.reserved0 arg, .reserved9 arg, .reservedA arg, .reservedB arg, .reservedC arg, .reservedD arg, .reservedE arg,
    .reservedF arg]

theorem decodeCommand_mem_reservedInstrs {w : CmdWord} (h : (opField w).toNat = 0 ∨ 9 ≤ (opField w).toNat) :
    decodeCommand w ∈ reservedInstrs (argField w) := by
  have hlt : (opField w).toNat < 16 := (opField w).isLt
  have hop : (opField w).toNat = 0 ∨ (opField w).toNat = 9 ∨ (opField w).toNat = 10 ∨ (opField w).toNat = 11 ∨
      (opField w).toNat = 12 ∨ (opField w).toNat = 13 ∨ (opField w).toNat = 14 ∨ (opField w).toNat = 15 := by omega
  rcases hop with h | h | h | h | h | h | h | h <;> simp [decodeCommand, reservedInstrs, h]

theorem exec_of_mem_reservedInstrs {i : Instr} {arg : Byte} (h : i ∈ reservedInstrs arg) (s : State) :
    exec i s = .next (raiseContractFault s) := by
  simp only [reservedInstrs, List.mem_cons, List.not_mem_nil, or_false] at h
  rcases h with rfl | rfl | rfl | rfl | rfl | rfl | rfl | rfl <;> rfl

/-- A contract fault writes the response, `SEQ` and `FAULT` alone (60_exceptions.md R263). -/
theorem raiseContractFault_eq (s : State) :
    raiseContractFault s =
      { s with rspStatus := .contract, rspData := 0x00, rspValid := true, seq := .idle, fault := true } := rfl

/-- Settles O4: the word decodes to a reserved instruction, and all eight of them are the contract fault. -/
theorem reservedOpIsContractFault : Obligations.ReservedOpIsContractFault := by
  intro w s hop
  have hmem := decodeCommand_mem_reservedInstrs hop
  exact ⟨decodeCommand w, rfl, hmem, by rw [exec_of_mem_reservedInstrs hmem, raiseContractFault_eq]⟩

/-! ## Commands without an operand -/

/-- DEINIT ends the session in every mode (41_session.md R133). -/
theorem exec_deinit (arg : Byte) (s : State) :
    exec (.deinit arg) s =
      andThen (emit .portDeinit s) fun u => .next (respond .ok 0x00 (forgetScratch { u with mode := .undef })) := rfl

theorem exec_readInstr (arg : Byte) (s : State) : exec (.readInstr arg) s = readCommand false s := rfl

theorem exec_readData (arg : Byte) (s : State) : exec (.readData arg) s = readCommand true s := rfl

theorem exec_waitBusy (arg : Byte) (s : State) : exec (.waitBusy arg) s = pollCommand s := rfl

/-- INIT_CTRL runs the sequence of the bound width (45_init_fsm.md R216). -/
theorem exec_initCtrl (arg : Byte) (s : State) :
    exec (.initCtrl arg) s = inSession s (if s.mode = .m8 then init8 s else init4 s) := by
  cases hm : s.mode <;> simp [exec, execInitCtrl, hm]

/-- The assembler writes ARG = 0x00 where the mnemonic has no operand (R74, R87). -/
theorem assembleLine_without_operand :
    assembleLine "deinit".toList = .ok [0x200] ∧ assembleLine "rdi".toList = .ok [0x500] ∧
    assembleLine "rdd".toList = .ok [0x600] ∧ assembleLine "waitbusy".toList = .ok [0x700] ∧
    assembleLine "initctrl".toList = .ok [0x800] := by decide

/-- Settles O5: the meaning of each of the five commands does not mention its ARG. -/
theorem ignoredArgHasNoEffect : Obligations.IgnoredArgHasNoEffect := by
  intro a b s
  refine ⟨?_, ?_, ?_, ?_, ?_, assembleLine_without_operand⟩
  · rw [exec_deinit, exec_deinit]
  · rw [exec_readInstr, exec_readInstr]
  · rw [exec_readData, exec_readData]
  · rw [exec_waitBusy, exec_waitBusy]
  · rw [exec_initCtrl, exec_initCtrl]

end Sys2Proof.Machine

/-! # Port events

The events of 40_port.md that set up the port or read it, as instructions: each is one emission, and what it writes or which
violation stops it is said once for every kind of event. -/

namespace Sys2Proof.Machine

/-- The instruction that is one emission of an event (log 11). -/
def instrOf (op : PortOp) : Instr :=
  match op with
  | .portInit w => .portInit w
  | .portDeinit => .portDeinit
  | .setRs => .setRs
  | .clrRs => .clrRs
  | .setRw => .setRw
  | .clrRw => .clrRw
  | .setCe => .setCe
  | .clrCe => .clrCe
  | .dirIn4 => .dirIn4
  | .dirIn8 => .dirIn8
  | .dirOut4 => .dirOut4
  | .dirOut8 => .dirOut8
  | .out4 n => .out4 n
  | .out8 v => .out8 v
  | .in4 => .in4
  | .in8 => .in8
  | .delay us => .delay us

theorem exec_instrOf (op : PortOp) (s : State) : exec (instrOf op) s = emit op s := by
  cases op <;> rfl

theorem exec_of_legal {op : PortOp} {s t : State} (hv : violation op s = none) (ht : perform op s = t) :
    exec (instrOf op) s = .next t := by
  rw [exec_instrOf, emit_of_legal hv, ht]

theorem exec_of_violation {op : PortOp} {s : State} {x : Fault} (h : violation op s = some x) :
    exec (instrOf op) s = .fault x := by
  rw [exec_instrOf, emit_of_violation h]

/-! ## What an event writes -/

/-- An event that draws no answer writes the lines and the trace alone. -/
theorem perform_without_answer {op : PortOp} (s : State) (h : answerOf op s = none) :
    perform op s = { s with lines := performLines op s.lines, trace := s.trace ++ [ev op] } := by
  cases op with
  | in4 | in8 => cases h
  | _ => rfl

theorem exec_without_answer {op : PortOp} {s : State} (hv : violation op s = none) (ha : answerOf op s = none) :
    exec (instrOf op) s = .next { s with lines := performLines op s.lines, trace := s.trace ++ [ev op] } :=
  exec_of_legal hv (perform_without_answer s ha)

/-- IN4 binds bits 3:0 of the next answer and uses it up (R115). -/
theorem perform_in4 (s : State) :
    perform .in4 s = { s with
      trace := s.trace ++ [in4Event (lowNibble (rdataAt s 0))]
      answers := s.answers.drop 1, draws := s.draws + 1 } := by
  rw [List.drop_one]
  rfl

/-- IN8 binds the next answer and uses it up (R116). -/
theorem perform_in8 (s : State) :
    perform .in8 s = { s with
      trace := s.trace ++ [in8Event (rdataAt s 0)]
      answers := s.answers.drop 1, draws := s.draws + 1 } := by
  rw [List.drop_one]
  rfl

/-! ## What is a violation (R118) -/

theorem violation_of_bad_width {w : Byte} (s : State) (h4 : w ≠ 4) (h8 : w ≠ 8) :
    violation (.portInit w) s = some .badPortWidth := by
  have hw : busWidth w = none := by rw [busWidth, if_neg h4, if_neg h8]
  simp [violation, hw]

theorem violation_outside_session {op : PortOp} {s : State} (hinit : ∀ w, op ≠ .portInit w) (hdeinit : op ≠ .portDeinit)
    (h : s.mode = .undef) : violation op s = some .eventOutsideSession := by
  cases op with
  | portInit w => exact absurd rfl (hinit w)
  | portDeinit => exact absurd rfl hdeinit
  | _ => exact if_pos h

theorem violation_of_width4_in_m8 {op : PortOp} {s : State} (hop : isWidth4 op = true) (h : s.mode = .m8) :
    violation op s = some .wrongWidth := by
  cases op with
  | dirIn4 | dirOut4 | out4 | in4 => simp [violation, h]
  | _ => cases hop

theorem violation_of_width8_in_m4 {op : PortOp} {s : State} (hop : isWidth8 op = true) (h : s.mode = .m4) :
    violation op s = some .wrongWidth := by
  cases op with
  | dirIn8 | dirOut8 | out8 | in8 => simp [violation, h]
  | _ => cases hop

theorem violation_in4_m4 {s : State} (h : s.mode = .m4) :
    violation .in4 s = if s.lines.dir4 = .input then none else some .inputWhileNotInput := by
  simp [violation, h]

theorem violation_in8_m8 {s : State} (h : s.mode = .m8) :
    violation .in8 s = if s.lines.dir8 = .input then none else some .inputWhileNotInput := by
  simp [violation, h]

/-! ## Session events -/

/-- Settles O24: a width of 4 or 8 is legal, any other is the violation of PORT_INIT, and PORT_DEINIT is always legal. -/
theorem portSessionEvents : Obligations.PortSessionEvents := by
  intro s
  refine ⟨?_, ?_, fun w h4 h8 => ?_, ?_⟩
  · exact exec_without_answer (op := .portInit 8) rfl rfl
  · exact exec_without_answer (op := .portInit 4) rfl rfl
  · exact exec_of_violation (violation_of_bad_width s h4 h8)
  · exact exec_without_answer (op := .portDeinit) rfl rfl

/-! ## Control lines -/

/-- The events of R103 to R108. -/
def controlLineOps : List PortOp := [.setRs, .clrRs, .setRw, .clrRw, .setCe, .clrCe]

/-- A control-line event needs a session and nothing else; it is performed at every level of its line (R119). -/
theorem exec_controlLine {op : PortOp} {s : State} (hop : op ∈ controlLineOps) (h : s.mode ≠ .undef) :
    exec (instrOf op) s = .next { s with lines := performLines op s.lines, trace := s.trace ++ [ev op] } := by
  simp only [controlLineOps, List.mem_cons, List.not_mem_nil, or_false] at hop
  rcases hop with rfl | rfl | rfl | rfl | rfl | rfl <;> exact exec_without_answer (if_neg h) rfl

/-- Settles O25: the six events are one case, apart from the line each writes. -/
theorem controlLineEvents : Obligations.ControlLineEvents := by
  intro s h
  have run (op : PortOp) (hop : op ∈ controlLineOps) := exec_controlLine hop h
  exact ⟨run .setRs (by decide), run .clrRs (by decide), run .setRw (by decide), run .clrRw (by decide),
    run .setCe (by decide), run .clrCe (by decide)⟩

/-! ## Directions -/

/-- The direction events, each with the mode of its width (R109 to R112). -/
def directionOps : List (PortOp × Mode) := [(.dirIn4, .m4), (.dirOut4, .m4), (.dirIn8, .m8), (.dirOut8, .m8)]

theorem exec_direction {op : PortOp} {m : Mode} {s : State} (hop : (op, m) ∈ directionOps) (h : s.mode = m) :
    exec (instrOf op) s = .next { s with lines := performLines op s.lines, trace := s.trace ++ [ev op] } := by
  simp only [directionOps, List.mem_cons, Prod.mk.injEq, List.not_mem_nil, or_false] at hop
  rcases hop with ⟨rfl, rfl⟩ | ⟨rfl, rfl⟩ | ⟨rfl, rfl⟩ | ⟨rfl, rfl⟩ <;>
    exact exec_without_answer (by simp [violation, h]) rfl

/-- Settles O26: in its own mode a direction event is performed; the other mode and no session are its violations. -/
theorem directionEvents : Obligations.DirectionEvents := by
  intro s
  refine ⟨fun h4 => ⟨?_, ?_, ?_, ?_⟩, fun h8 => ⟨?_, ?_, ?_, ?_⟩, fun hu i hi => ?_⟩
  · exact exec_direction (op := .dirIn4) (by decide) h4
  · exact exec_direction (op := .dirOut4) (by decide) h4
  · exact exec_of_violation (violation_of_width8_in_m4 (op := .dirIn8) rfl h4)
  · exact exec_of_violation (violation_of_width8_in_m4 (op := .dirOut8) rfl h4)
  · exact exec_direction (op := .dirIn8) (by decide) h8
  · exact exec_direction (op := .dirOut8) (by decide) h8
  · exact exec_of_violation (violation_of_width4_in_m8 (op := .dirIn4) rfl h8)
  · exact exec_of_violation (violation_of_width4_in_m8 (op := .dirOut4) rfl h8)
  · have outside (op : PortOp) (hinit : ∀ w, op ≠ .portInit w) (hdeinit : op ≠ .portDeinit) :=
      exec_of_violation (violation_outside_session hinit hdeinit hu)
    simp only [List.mem_cons, List.not_mem_nil, or_false] at hi
    rcases hi with rfl | rfl | rfl | rfl
    · exact outside .dirIn4 nofun nofun
    · exact outside .dirOut4 nofun nofun
    · exact outside .dirIn8 nofun nofun
    · exact outside .dirOut8 nofun nofun

/-! ## Inputs -/

/-- Settles O28: each clause is one emission, performed or stopped by its violation. -/
theorem inputEvents : Obligations.InputEvents := by
  intro s
  refine ⟨fun h4 hd => ?_, fun h8 hd => ?_, fun h4 hd => ?_, fun h8 hd => ?_, fun h8 => ?_, fun h4 => ?_,
    fun hu => ⟨?_, ?_⟩⟩
  · exact exec_of_legal (by rw [violation_in4_m4 h4, if_pos hd]) (perform_in4 s)
  · exact exec_of_legal (by rw [violation_in8_m8 h8, if_pos hd]) (perform_in8 s)
  · exact exec_of_violation (op := .in4) (by rw [violation_in4_m4 h4, if_neg hd])
  · exact exec_of_violation (op := .in8) (by rw [violation_in8_m8 h8, if_neg hd])
  · exact exec_of_violation (violation_of_width4_in_m8 (op := .in4) rfl h8)
  · exact exec_of_violation (violation_of_width8_in_m4 (op := .in8) rfl h4)
  · exact exec_of_violation (violation_outside_session (op := .in4) nofun nofun hu)
  · exact exec_of_violation (violation_outside_session (op := .in8) nofun nofun hu)

end Sys2Proof.Machine

/-! # Session commands

INIT and DEINIT (41_session.md) as equations: what each answers in the states where it runs and where it is turned away; and
what every other command word does while no session is open. -/

namespace Sys2Proof.Machine

/-! ## INIT -/

/-- The two widths of INIT, each with the mode it binds (30_encoding.md R71). -/
theorem busWidth_of_width {arg : Byte} (h : arg = 4 ∨ arg = 8) :
    busWidth arg = some (if arg = 4 then .m4 else .m8) := by
  rcases h with rfl | rfl <;> rfl

theorem violation_portInit_of_width {arg : Byte} {m : Mode} (s : State) (hw : busWidth arg = some m) :
    violation (.portInit arg) s = none := by
  simp [violation, hw]

/-- Outside a session INIT of a width emits PORT_INIT, binds the mode and answers (OK, 0x00). -/
theorem exec_init_of_width {arg : Byte} {m : Mode} {s : State} (hw : busWidth arg = some m) (hu : s.mode = .undef) :
    exec (.init arg) s =
      .next (respond .ok 0x00 { s with
        mode := m
        lines := performLines (.portInit arg) s.lines
        trace := s.trace ++ [ev (.portInit arg)] }) := by
  simp only [exec, execInit, hw, hu, ne_eq, not_true_eq_false, if_false,
    emit_of_legal (violation_portInit_of_width s hw), andThen_next]
  rw [perform_without_answer s rfl]

/-- The width check, then the check that no session is open (60_exceptions.md R265). -/
theorem exec_init_rejected {arg : Byte} {s : State} (h : busWidth arg = none ∨ s.mode ≠ .undef) :
    exec (.init arg) s = .next (raiseContractFault s) := by
  cases hw : busWidth arg with
  | none => simp [exec, execInit, hw]
  | some m =>
    have hm : s.mode ≠ .undef := h.resolve_left (by simp [hw])
    simp [exec, execInit, hw, hm]

/-! ## DEINIT -/

/-- DEINIT is never turned away: PORT_DEINIT is legal in every mode. -/
theorem exec_deinit_eq (arg : Byte) (s : State) :
    exec (.deinit arg) s =
      .next (respond .ok 0x00 (forgetScratch { s with
        mode := .undef
        lines := Lines.floating
        trace := s.trace ++ [ev .portDeinit] })) := by
  rw [exec_deinit, emit_of_legal rfl, andThen_next, perform_without_answer s rfl, performLines]

/-! ## The other command words outside a session -/

/-- The operation set: the six commands that need a bound width, with one ARG (R130). -/
def operationSet (arg : Byte) : List Instr :=
  [.writeInstr arg, .writeData arg, .readInstr arg, .readData arg, .waitBusy arg, .initCtrl arg]

theorem exec_of_mem_operationSet {i : Instr} {arg : Byte} {s : State} (h : i ∈ operationSet arg)
    (hu : s.mode = .undef) : exec i s = .next (notInitStub s) := by
  simp only [operationSet, List.mem_cons, List.not_mem_nil, or_false] at h
  rcases h with rfl | rfl | rfl | rfl | rfl | rfl <;> exact inSession_undef hu

/-- The stub writes the response, `SEQ` and `FAULT` alone (R131). -/
theorem notInitStub_eq (s : State) :
    notInitStub s =
      { s with rspStatus := .notInit, rspData := 0xFF, rspValid := true, seq := .idle, fault := true } := rfl

/-- Every command word is INIT, DEINIT, of the operation set or reserved (30_encoding.md R72, R73). -/
theorem decodeCommand_cases (w : CmdWord) :
    decodeCommand w = .init (argField w) ∨ decodeCommand w = .deinit (argField w) ∨
    decodeCommand w ∈ operationSet (argField w) ∨ decodeCommand w ∈ reservedInstrs (argField w) := by
  unfold decodeCommand
  split <;> simp [operationSet, reservedInstrs]

/-- No command word but INIT's opens a session: DEINIT unbinds MODE, the stub and the contract fault leave it. -/
theorem exec_command_keeps_undef {w : CmdWord} {s t : State} (hinit : ∀ arg, decodeCommand w ≠ .init arg)
    (hu : s.mode = .undef) (h : exec (decodeCommand w) s = .next t) : t.mode = .undef := by
  rcases decodeCommand_cases w with hi | hd | hop | hres
  · exact absurd hi (hinit _)
  · rw [hd, exec_deinit_eq] at h
    cases h
    rfl
  · rw [exec_of_mem_operationSet hop hu] at h
    cases h
    exact hu
  · rw [exec_of_mem_reservedInstrs hres] at h
    cases h
    exact hu

/-! ## The statements -/

/-- Settles O6: both widths are the one equation of a successful INIT, a rejected one is the contract fault, and the other
command words keep MODE = UNDEF. -/
theorem initBindsWidth : Obligations.InitBindsWidth := by
  refine ⟨fun s hu => ?_, fun s hu => ?_, fun s arg h => ?_, fun w i s t hd hu h ht => ?_⟩
  · exact ⟨s.sample, s.hi, s.k, exec_init_of_width (arg := 4) rfl hu⟩
  · exact ⟨s.sample, s.hi, s.k, exec_init_of_width (arg := 8) rfl hu⟩
  · have hrejected : busWidth arg = none ∨ s.mode ≠ .undef := h.imp_left fun ⟨h4, h8⟩ => busWidth_none h4 h8
    rw [exec_init_rejected hrejected, raiseContractFault_eq]
  · cases hd
    by_contra hinit
    exact ht (exec_command_keeps_undef (fun arg harg => hinit ⟨arg, harg⟩) hu h)

/-- Settles O9: the six commands are the operation set, and before INIT each of it is the stub. -/
theorem commandsBeforeInitAreStubs : Obligations.CommandsBeforeInitAreStubs := by
  intro a s i hu hi
  have hmem : i ∈ operationSet a := by simpa [operationSet] using hi
  rw [exec_of_mem_operationSet hmem hu, notInitStub_eq]

/-- Settles O7: the values left open are the ones `forgetScratch` takes. -/
theorem deinitEndsSession : Obligations.DeinitEndsSession := by
  intro arg s
  exact ⟨_, _, _, exec_deinit_eq arg s⟩

/-- The lines of R35's column "after INIT": PORT_INIT on a floating port sets the control lines and its own direction. -/
theorem performLines_portInit_floating {arg : Byte} (h : arg = 4 ∨ arg = 8) :
    performLines (.portInit arg) Lines.floating =
      { rs := .low, rw := .high, ce := .low, dir4 := if arg = 4 then .input else .u,
        dir8 := if arg = 4 then .u else .input, dout := .u } := by
  rcases h with rfl | rfl <;> rfl

/-- Settles O10: INIT runs on the state DEINIT leaves, where MODE = UNDEF and every line floats. -/
theorem sessionsRepeat : Obligations.SessionsRepeat := by
  intro a arg s hwidth
  refine ⟨_, _, exec_deinit_eq a s, exec_init_of_width (busWidth_of_width hwidth) rfl, rfl,
    performLines_portInit_floating hwidth, ?_, rfl, rfl, rfl, rfl, rfl, rfl⟩
  simp

end Sys2Proof.Machine

/-! # Write cycles

The write commands (42_write.md R150 to R155) as equations, and the latch invariant of R153: what the port holds when a step
of a running command emits the CLR_CE of a write cycle or an IN event. -/

namespace Sys2Proof.Machine

/-! ## The write commands -/

theorem exec_writeInstr (v : Byte) (s : State) : exec (.writeInstr v) s = writeCommand false v s := rfl

theorem exec_writeData (v : Byte) (s : State) : exec (.writeData v) s = writeCommand true v s := rfl

/-- Settles O11: both commands are the write command of the bound width, with RS = 0 and RS = 1. -/
theorem writeCommandsEmitTheirCycle : Obligations.WriteCommandsEmitTheirCycle := by
  refine fun v s => ⟨fun h8 => ⟨?_, ?_⟩, fun h4 => ⟨?_, ?_⟩⟩
  · exact (exec_writeInstr v s).trans (writeCommand_eq8 false v h8)
  · exact (exec_writeData v s).trans (writeCommand_eq8 true v h8)
  · exact (exec_writeInstr v s).trans (writeCommand_eq4 false v h4)
  · exact (exec_writeData v s).trans (writeCommand_eq4 true v h4)

/-! ## The one event a step of a running command adds to the trace -/

@[simp] theorem afterEvent_trace (p : Part) (i : Nat) (e : PortOp) (bound : Byte) (s : State) :
    (afterEvent p i e bound s).trace = s.trace :=
  afterEvent_eq p i e bound s (·.trace) fun _ _ _ _ => rfl

@[simp] theorem afterTailPoll_trace (x : InitState) (arg : Byte) (j : Nat) (s : State) :
    (afterTailPoll x arg j s).trace = s.trace := by
  unfold afterTailPoll
  split <;> rfl

@[simp] theorem initTransition_trace (arg : Byte) (j : Nat) (s : State) : (initTransition arg j s).trace = s.trace := by
  unfold initTransition
  cases s.is with
  | dcP | clrP => exact afterTailPoll_trace _ arg j s
  | _ => rfl

@[simp] theorem completePart_trace (op : Op) (arg : Byte) (j : Nat) (s : State) :
    (completePart op arg j s).trace = s.trace := by
  cases op with
  | initCtrl => exact initTransition_trace arg j s
  | _ => rfl

theorem nextStep_trace {op : Op} {arg : Byte} {j i : Nat} {bound : Byte} {s t : State}
    (h : nextStep op arg j i bound s = .next t) :
    ∃ e, nextEvent (partOf op arg s) i s = some e ∧ violation e s = none ∧ t.trace = s.trace ++ [⟨e, answerOf e s⟩] := by
  obtain ⟨e, u, he, hv, rfl, ⟨-, rfl⟩ | ⟨-, rfl⟩⟩ := nextStep_eq_next h
  · exact ⟨e, he, hv, by simp⟩
  · exact ⟨e, he, hv, by simp⟩

/-- A command that is turned away adds no event (60_exceptions.md R263, 41_session.md R131). -/
theorem rejection_trace {op : Op} {arg : Byte} {s t : State} (h : rejection op arg s = some t) : t.trace = s.trace := by
  obtain rfl | ⟨-, rfl⟩ := rejection_eq_some h <;> simp

/-- A step of an accepted command that emits an event executes it: the event is the one at its position, and legal. -/
theorem tick_emits {op : Op} {arg : Byte} {j i : Nat} {bound : Byte} {s t : State} {x : Event}
    (h : tick op arg j i bound s = .next t) (hx : t.trace = s.trace ++ [x]) :
    rejection op arg s = none ∧ nextEvent (partOf op arg s) i s = some x.op ∧ violation x.op s = none := by
  obtain hrej | ⟨hexec, hnext⟩ := tick_eq_next h
  · simp [rejection_trace hrej] at hx
  · obtain ⟨e, he, hv, ht⟩ := nextStep_trace hnext
    obtain rfl : ⟨e, answerOf e s⟩ = x := by simpa [ht] using hx
    exact ⟨hexec, he, hv⟩

theorem BlockInv.running {op : Op} {arg : Byte} {j i : Nat} {bound : Byte} {s : State} (h : BlockInv s)
    (hs : s.seq = .run op arg j i bound) : runningWell op arg j i s := by
  obtain ⟨-, -, -, hseq⟩ := h
  rwa [hs] at hseq

theorem BlockInv.step_of_running {op : Op} {arg : Byte} {j i : Nat} {bound : Byte} {s : State} (h : BlockInv s)
    (hs : s.seq = .run op arg j i bound) (hr : s.resetReq = false) : step s = tick op arg j i bound s :=
  step_of_run h.1 hr (h.running hs).1 hs

/-- In the invariant a command that is not turned away executes. -/
theorem BlockInv.executes {op : Op} {arg : Byte} {j i : Nat} {bound : Byte} {s : State} (h : BlockInv s)
    (hs : s.seq = .run op arg j i bound) (hexec : rejection op arg s = none) : executesWell op arg j i s := by
  obtain ⟨-, ⟨haway, -⟩ | ⟨-, hwell⟩⟩ := h.running hs
  · simp [turnedAway, hexec] at haway
  · exact hwell

/-! ## What an IN event rests on -/

/-- A legal IN8 is one in M8 with DIR8 = IN (40_port.md R118). -/
theorem in8_legal {s : State} (h : violation .in8 s = none) : s.mode = .m8 ∧ s.lines.dir8 = .input := by
  cases hm : s.mode with
  | m8 => simpa [violation_in8_m8 hm] using h
  | m4 => simp [violation_of_width8_in_m4 (op := .in8) rfl hm] at h
  | undef => simp [violation_outside_session (op := .in8) nofun nofun hm] at h

/-- A legal IN4 is one in M4 with DIR4 = IN (40_port.md R118). -/
theorem in4_legal {s : State} (h : violation .in4 s = none) : s.mode = .m4 ∧ s.lines.dir4 = .input := by
  cases hm : s.mode with
  | m4 => simpa [violation_in4_m4 hm] using h
  | m8 => simp [violation_of_width4_in_m8 (op := .in4) rfl hm] at h
  | undef => simp [violation_outside_session (op := .in4) nofun nofun hm] at h

/-! ## The lines at each CLR_CE of a write cycle (R153) -/

theorem regSelect_ne_clrCe (rs : Bool) : regSelect rs ≠ .clrCe := by
  cases rs <;> decide

/-- W8 has one CLR_CE, the sixth of its events (R150). -/
theorem w8_clrCe {rs : Bool} {v : Byte} {i : Nat} (h : (w8 rs v)[i]? = some .clrCe) : i = 5 := by
  have hlt : i < 8 := (List.getElem?_eq_some_iff.1 h).1
  interval_cases i <;> simp_all [w8, regSelect_ne_clrCe]

/-- W4N has one CLR_CE, the sixth of its events (R152). -/
theorem w4n_clrCe {rs : Bool} {n : Nibble} {i : Nat} (h : (w4n rs n)[i]? = some .clrCe) : i = 5 := by
  have hlt : i < 8 := (List.getElem?_eq_some_iff.1 h).1
  interval_cases i <;> simp_all [w4n, regSelect_ne_clrCe]

/-- W4 has two, the sixth and the ninth of its events (R151). -/
theorem w4_clrCe {rs : Bool} {v : Byte} {i : Nat} (h : (w4 rs v)[i]? = some .clrCe) : i = 5 ∨ i = 8 := by
  have hlt : i < 11 := (List.getElem?_eq_some_iff.1 h).1
  interval_cases i <;> simp_all [w4, regSelect_ne_clrCe]

theorem linesAfter_append (xs ys : List PortOp) (l : Lines) :
    linesAfter (xs ++ ys) l = linesAfter ys (linesAfter xs l) := List.foldl_append

theorem linesAfter_w8_pulse (rs : Bool) (v : Byte) (l : Lines) :
    linesAfter ((w8 rs v).take 5) l =
      { l with rs := rsLevel rs, rw := .low, ce := .high, dir8 := .output, dout := .byte v } := by
  cases rs <;> rfl

theorem linesAfter_w4n_pulse (rs : Bool) (n : Nibble) (l : Lines) :
    linesAfter ((w4n rs n).take 5) l =
      { l with rs := rsLevel rs, rw := .low, ce := .high, dir4 := .output, dout := .nibble n } := by
  cases rs <;> simp [linesAfter, w4n, regSelect, performLines, rsLevel, lowNibble_zext8]

theorem linesAfter_w4_first_pulse (rs : Bool) (v : Byte) (l : Lines) :
    linesAfter ((w4 rs v).take 5) l =
      { l with rs := rsLevel rs, rw := .low, ce := .high, dir4 := .output, dout := .nibble (highNibble v) } :=
  linesAfter_w4n_pulse rs (highNibble v) l

theorem linesAfter_w4_second_pulse (rs : Bool) (v : Byte) (l : Lines) :
    linesAfter ((w4 rs v).take 8) l =
      { l with rs := rsLevel rs, rw := .low, ce := .high, dir4 := .output, dout := .nibble (lowNibble v) } := by
  have hsplit : (w4 rs v).take 8 = (w4 rs v).take 5 ++ [.clrCe, .setCe, .out4 (zext8 (lowNibble v))] := rfl
  rw [hsplit, linesAfter_append, linesAfter_w4_first_pulse]
  simp [linesAfter, performLines, lowNibble_zext8]

/-! ## A command in a write cycle -/

/-- The part of a writing command is PRELIM's single nibble, or the bound width's cycle for the byte it sends (45_init_fsm.md
R215). -/
theorem partOf_writing {op : Op} {arg : Byte} {s : State} (hw : isWriting op s.is = true)
    (his : op = .initCtrl ↔ s.is ≠ .idle) :
    s.is = .pre ∧ partOf op arg s = .fixed (w4n false codePrelim) ∨
    s.is ≠ .pre ∧ ∃ rs, partOf op arg s = .fixed (writeEvents s.mode rs (writtenByte op arg s)) := by
  cases op with
  | writeInstr => exact .inr ⟨by simp_all, false, rfl⟩
  | writeData => exact .inr ⟨by simp_all, true, rfl⟩
  | initCtrl =>
    cases hx : s.is with
    | pre => exact .inl ⟨rfl, by simp [partOf, initPart, hx]⟩
    | fs1 | fs2 =>
      refine .inr ⟨nofun, false, ?_⟩
      cases hm : s.mode <;> simp [partOf, initPart, funcsetCode, writtenByte, codeFuncset8, hx, hm]
    | dc => exact .inr ⟨nofun, false, by simp [partOf, initPart, writtenByte, codeDispctrl, hx]⟩
    | clr => exact .inr ⟨nofun, false, by simp [partOf, initPart, writtenByte, codeClear, hx]⟩
    | em => exact .inr ⟨nofun, false, by simp [partOf, initPart, writtenByte, codeEntry, hx]⟩
    | idle | d1 | d2 | dcP | clrP | emP => simp [isWriting, hx] at hw
  | _ => cases hw

/-- A command in a write cycle executes in a session alone. -/
theorem writing_in_session {op : Op} {arg : Byte} {s : State} (hw : isWriting op s.is = true)
    (hexec : rejection op arg s = none) : s.mode ≠ .undef := by
  refine (executes_iff.1 hexec).2.2 ?_ ?_ <;> rintro rfl <;> cases hw

/-- At CLR_CE in a write cycle the lines are those of the pulse: RW = 0, DIR = OUT, and in DOUT what the LCD latches. -/
theorem executesWell.latched {op : Op} {arg : Byte} {j i : Nat} {s : State} (h : executesWell op arg j i s)
    (hw : isWriting op s.is = true) (hm : s.mode ≠ .undef) (he : nextEvent (partOf op arg s) i s = some .clrCe) :
    s.lines.rw = .low ∧
    (s.mode = .m8 ∧ s.lines.dir8 = .output ∧ s.lines.dout = .byte (writtenByte op arg s) ∨
      s.mode = .m4 ∧ s.lines.dir4 = .output ∧
        (s.is = .pre ∧ s.lines.dout = .nibble codePrelim ∨
          s.is ≠ .pre ∧ i = 5 ∧ s.lines.dout = .nibble (highNibble (writtenByte op arg s)) ∨
          s.is ≠ .pre ∧ i = 8 ∧ s.lines.dout = .nibble (lowNibble (writtenByte op arg s)))) := by
  obtain ⟨his, hpre, -, -, -, l, -, hl⟩ := h
  obtain ⟨hx, hpart⟩ | ⟨hx, rs, hpart⟩ := partOf_writing (arg := arg) hw his
  · simp only [hpart, nextEvent, emittedSoFar] at he hl
    obtain rfl := w4n_clrCe he
    rw [linesAfter_w4n_pulse] at hl
    simp [hl, hx, hpre hx]
  · simp only [hpart, nextEvent, emittedSoFar] at he hl
    cases hmode : s.mode with
    | undef => exact absurd hmode hm
    | m8 =>
      simp only [hmode, writeEvents] at he hl
      obtain rfl := w8_clrCe he
      rw [linesAfter_w8_pulse] at hl
      simp [hl]
    | m4 =>
      simp only [hmode, writeEvents] at he hl
      obtain rfl | rfl := w4_clrCe he
      · rw [linesAfter_w4_first_pulse] at hl
        simp [hl, hx]
      · rw [linesAfter_w4_second_pulse] at hl
        simp [hl, hx]

/-- Settles O52: the event a step emits is the one at its position, so CLR_CE finds the lines of the events before it, and an IN
event is a legal one. -/
theorem latchInvariantAtEveryEdge : Obligations.LatchInvariantAtEveryEdge := by
  intro op arg j i b s t hinv hseq hreset hstep
  rw [hinv.step_of_running hseq hreset] at hstep
  refine ⟨fun hw ht => ?_, fun ⟨v, ht⟩ => ?_, fun ⟨v, ht⟩ => ?_⟩
  · obtain ⟨hexec, he, -⟩ := tick_emits hstep ht
    exact (hinv.executes hseq hexec).latched hw (writing_in_session hw hexec) he
  · obtain ⟨-, -, hv⟩ := tick_emits hstep ht
    exact in8_legal hv
  · obtain ⟨-, -, hv⟩ := tick_emits hstep ht
    exact in4_legal hv

end Sys2Proof.Machine

/-! # Read cycles

The read commands (43_read.md R174, R175) as equations, and the recombination of their nibbles (R173). -/

namespace Sys2Proof.Machine

/-! ## Recombination (R173) -/

theorem joinNibbles_toNat (hi lo : Nibble) : (joinNibbles hi lo).toNat = 16 * hi.toNat + lo.toNat := by
  have hlo : lo.toNat < 2 ^ 4 := lo.isLt
  calc (joinNibbles hi lo).toNat
      = hi.toNat <<< 4 ||| lo.toNat := by rw [joinNibbles_eq_append, BitVec.toNat_append]
    _ = hi.toNat <<< 4 + lo.toNat := (Nat.shiftLeft_add_eq_or_of_lt hlo hi.toNat).symm
    _ = 16 * hi.toNat + lo.toNat := by rw [Nat.shiftLeft_eq, Nat.mul_comm]

@[simp] theorem highNibble_joinNibbles (hi lo : Nibble) : highNibble (joinNibbles hi lo) = hi := by
  rw [joinNibbles_eq_append, highNibble, BitVec.extractLsb'_append_eq_left]

@[simp] theorem lowNibble_joinNibbles (hi lo : Nibble) : lowNibble (joinNibbles hi lo) = lo := by
  rw [joinNibbles_eq_append, lowNibble, BitVec.extractLsb'_append_eq_right]

/-- Settles O14: recombination is concatenation, whose value and halves are these. -/
theorem nibblesRecombineExactly : Obligations.NibblesRecombineExactly :=
  fun hi lo => ⟨joinNibbles_toNat hi lo, highNibble_joinNibbles hi lo, lowNibble_joinNibbles hi lo⟩

/-! ## The read commands -/

/-- R8 draws one answer, which is SAMPLE and the response (R170, R174, R175). -/
theorem readCommand_of_m8 {s : State} (rs : Bool) (h : s.mode = .m8) (hd : s.lines.dir8 = .input) :
    readCommand rs s =
      .next { s with
        lines := { s.lines with rs := rsLevel rs, rw := .high, ce := .low }
        sample := rdataAt s 0
        answers := s.answers.drop 1
        draws := s.draws + 1
        trace := s.trace ++ [ev (regSelect rs), ev .setRw, ev .setCe, in8Event (rdataAt s 0), ev .clrCe]
        rspStatus := .ok, rspData := rdataAt s 0, rspValid := true, seq := .idle } := by
  rw [readCommand_eq8 rs h hd, List.drop_one]
  rfl

/-- Settles O12: both commands are the read command of M8, with RS = 0 and RS = 1. -/
theorem readCommandsInM8 : Obligations.ReadCommandsInM8 := by
  refine fun a s h8 hin => ⟨?_, ?_⟩
  · exact (exec_readInstr a s).trans (readCommand_of_m8 false h8 hin)
  · exact (exec_readData a s).trans (readCommand_of_m8 true h8 hin)

/-- R4 draws two answers; bits 3:0 of each, high nibble first, are SAMPLE and the response (R171, R174, R175). -/
theorem readCommand_of_m4 {s : State} (rs : Bool) (h : s.mode = .m4) (hd : s.lines.dir4 = .input) :
    readCommand rs s =
      .next { s with
        lines := { s.lines with rs := rsLevel rs, rw := .high, ce := .low }
        hi := lowNibble (rdataAt s 0)
        sample := lowNibble (rdataAt s 0) ++ lowNibble (rdataAt s 1)
        answers := s.answers.drop 2
        draws := s.draws + 2
        trace := s.trace ++ ([ev (regSelect rs), ev .setRw] ++ sampleTrace4 (rdataAt s 0) (rdataAt s 1))
        rspStatus := .ok, rspData := lowNibble (rdataAt s 0) ++ lowNibble (rdataAt s 1), rspValid := true, seq := .idle } := by
  rw [readCommand_eq4 rs h hd, joinNibbles_eq_append]
  rfl

/-- Settles O13: both commands are the read command of M4, with RS = 0 and RS = 1. -/
theorem readCommandsInM4 : Obligations.ReadCommandsInM4 := by
  refine fun a s h4 hin => ⟨?_, ?_⟩
  · exact (exec_readInstr a s).trans (readCommand_of_m4 false h4 hin)
  · exact (exec_readData a s).trans (readCommand_of_m4 true h4 hin)

end Sys2Proof.Machine

/-! # Busy polls

WAIT_BUSY (44_busy_poll.md R190, R191, R193, R194): the first ready sample, or the last of N busy ones, fixes how many samples
the poll takes and its result; the equations `pollCommand_eq8` and `pollCommand_eq4` say the rest. -/

namespace Sys2Proof.Machine

/-- Settles O15: the count is k + 1 with result OK, or N with TIMEOUT, in the equation of the poll in M8. -/
theorem waitBusyInM8 : Obligations.WaitBusyInM8 := by
  refine fun a s h8 hin hN => ⟨fun k hk hready hbusy => ?_, fun hbusy => ?_⟩
  · obtain ⟨hcount, hresult⟩ := sampleCount_of_first_ready (f := rdataAt s) hk hready hbusy
    rw [exec_waitBusy, pollCommand_eq8 hN h8 hin, hcount, hresult]
    rfl
  · obtain ⟨hcount, hresult⟩ := sampleCount_of_all_busy (f := rdataAt s) hbusy
    rw [exec_waitBusy, pollCommand_eq8 hN h8 hin, hcount, hresult]
    rfl

/-- Settles O16: the same in the equation of the poll in M4, where a sample is a pair of answers and its bit 7 is bit 3 of the
first of them. -/
theorem waitBusyInM4 : Obligations.WaitBusyInM4 := by
  refine fun a s h4 hin hN => ⟨fun k hk hready hbusy => ?_, fun hbusy => ?_⟩
  · simp only [← busy_pairByte] at hready hbusy
    obtain ⟨hcount, hresult⟩ := sampleCount_of_first_ready hk hready hbusy
    rw [exec_waitBusy, pollCommand_eq4 hN h4 hin, hcount, hresult]
    rfl
  · simp only [← busy_pairByte] at hbusy
    obtain ⟨hcount, hresult⟩ := sampleCount_of_all_busy hbusy
    rw [exec_waitBusy, pollCommand_eq4 hN h4 hin, hcount, hresult]
    rfl

end Sys2Proof.Machine

/-! # Controller initialization

How many events INIT_CTRL emits (45_init_fsm.md R218): the lengths of its parts, and the last state that its FSM reaches. -/

namespace Sys2Proof.Machine

/-! ## How long the parts are -/

@[simp] theorem length_evs (ops : List PortOp) : (evs ops).length = ops.length := List.length_map ev

@[simp] theorem length_w8 (rs : Bool) (v : Byte) : (w8 rs v).length = 8 := rfl

@[simp] theorem length_w4 (rs : Bool) (v : Byte) : (w4 rs v).length = 11 := rfl

@[simp] theorem length_w4n (rs : Bool) (n : Nibble) : (w4n rs n).length = 8 := rfl

@[simp] theorem length_pollTrace8 (k : Nat) (f : Nat → Byte) : (pollTrace8 k f).length = 4 + k := by
  simp [pollTrace8]; omega

@[simp] theorem length_pollTrace4 (k : Nat) (f : Nat → Byte) : (pollTrace4 k f).length = 2 + 6 * k := by
  simp [pollTrace4, sampleTrace4]; omega

theorem setUp8_trace_length (s : State) : (setUp8 s).trace.length = s.trace.length + 18 := by
  simp [setUp8]

theorem setUp4_trace_length (s : State) : (setUp4 s).trace.length = s.trace.length + 32 := by
  simp [setUp4]

/-! ## A poll of the tail -/

/-- `u` is `s` after a checked write whose poll ended OK or not, as `ok` says, with k samples of N = n: the write and the ends of
the poll are w events, and a sample is m. -/
structure AfterPoll (n w m : Nat) (s u : State) (ok : Bool) (k : Nat) : Prop where
  status : pollStatus u = if ok then .ok else .timeout
  length : u.trace.length = s.trace.length + (w + m * k)
  timeout : ok = false → k = n

theorem afterPoll_polled8 {s : State} {n : Nat} {f : Nat → Byte} (x : InitState) (v : Byte) (hN : 1 ≤ n)
    (hn : s.cfg.busyRetryMax = n) (hf : rdataAt s = f) :
    AfterPoll n 12 1 s (polled8 x v s) (pollReady n f) (sampleCount n f) := by
  subst hn hf
  refine ⟨pollStatus_polled8 x v hN, ?_, sampleCount_of_not_ready⟩
  simp [polled8_trace]
  omega

theorem afterPoll_polled4 {s : State} {n : Nat} {f : Nat → Byte} (x : InitState) (v : Byte) (hN : 1 ≤ n)
    (hn : s.cfg.busyRetryMax = n) (hf : rdataAt s = f) :
    AfterPoll n 13 6 s (polled4 x v s) (pollReady n (pairByte f)) (sampleCount n (pairByte f)) := by
  subst hn hf
  refine ⟨pollStatus_polled4 x v hN, ?_, sampleCount_of_not_ready⟩
  simp [polled4_trace]
  omega

/-! ## Where INIT_CTRL ends -/

/-- The first poll that times out is the last one (R217): the result and the trace of each of the four outcomes. -/
theorem finishInitCtrl_outcomes {n w m k1 k2 k3 : Nat} {s one two three t : State} {ok1 ok2 ok3 : Bool}
    (h1 : AfterPoll n w m s one ok1 k1) (h2 : AfterPoll n w m one two ok2 k2) (h3 : AfterPoll n w m two three ok3 k3)
    (ht : t = finishInitCtrl (if ok1 then if ok2 then three else two else one)) :
    (ok1 = true ∧ ok2 = true ∧ ok3 = true →
      t.rspStatus = .ok ∧ t.trace.length = s.trace.length + (w + m * k1) + (w + m * k2) + (w + m * k3)) ∧
    (ok1 = false → t.rspStatus = .timeout ∧ t.trace.length = s.trace.length + (w + m * n)) ∧
    (ok1 = true ∧ ok2 = false →
      t.rspStatus = .timeout ∧ t.trace.length = s.trace.length + (w + m * k1) + (w + m * n)) ∧
    (ok1 = true ∧ ok2 = true ∧ ok3 = false →
      t.rspStatus = .timeout ∧ t.trace.length = s.trace.length + (w + m * k1) + (w + m * k2) + (w + m * n)) := by
  have two_length := h1.length ▸ h2.length
  have three_length := two_length ▸ h3.length
  subst ht
  refine ⟨?_, ?_, ?_, ?_⟩
  · rintro ⟨rfl, rfl, rfl⟩
    exact ⟨h3.status, three_length⟩
  · rintro rfl
    exact ⟨h1.status, h1.timeout rfl ▸ h1.length⟩
  · rintro ⟨rfl, rfl⟩
    exact ⟨h2.status, h2.timeout rfl ▸ two_length⟩
  · rintro ⟨rfl, rfl, rfl⟩
    exact ⟨h3.status, h3.timeout rfl ▸ three_length⟩

/-- The three checked writes of the tail in M8: each poll draws the answers after those of the polls before it. -/
theorem execInitCtrl_polls8 {s : State} {n : Nat} {f1 f2 f3 : Nat → Byte} (a : Byte) (hN : 1 ≤ n)
    (hm : s.mode = .m8) (hn : s.cfg.busyRetryMax = n) (hf1 : rdataAt s = f1)
    (hf2 : f2 = fun i => f1 (sampleCount n f1 + i)) (hf3 : f3 = fun i => f2 (sampleCount n f2 + i)) :
    ∃ one two three : State,
      exec (.initCtrl a) s =
        .next (finishInitCtrl (if pollReady n f1 then if pollReady n f2 then three else two else one)) ∧
      AfterPoll n 12 1 (setUp8 s) one (pollReady n f1) (sampleCount n f1) ∧
      AfterPoll n 12 1 one two (pollReady n f2) (sampleCount n f2) ∧
      AfterPoll n 12 1 two three (pollReady n f3) (sampleCount n f3) := by
  subst hn hf1
  have draws2 : rdataAt (polled8 .dcP 0x0C (setUp8 s)) = f2 := (rdataAt_polled8 ..).trans hf2.symm
  have draws3 : rdataAt (polled8 .clrP 0x01 (polled8 .dcP 0x0C (setUp8 s))) = f3 := by
    rw [rdataAt_polled8, draws2, hf3]
    rfl
  exact ⟨_, _, _, draws2 ▸ execInitCtrl_eq8 a hN hm, afterPoll_polled8 .dcP 0x0C hN rfl (rdataAt_setUp8 s),
    afterPoll_polled8 .clrP 0x01 hN rfl draws2, afterPoll_polled8 .emP 0x06 hN rfl draws3⟩

/-- The same in M4, where a sample draws two answers. -/
theorem execInitCtrl_polls4 {s : State} {n : Nat} {f1 f2 f3 : Nat → Byte} (a : Byte) (hN : 1 ≤ n)
    (hm : s.mode = .m4) (hn : s.cfg.busyRetryMax = n) (hf1 : rdataAt s = f1)
    (hf2 : f2 = fun i => f1 (2 * sampleCount n (pairByte f1) + i))
    (hf3 : f3 = fun i => f2 (2 * sampleCount n (pairByte f2) + i)) :
    ∃ one two three : State,
      exec (.initCtrl a) s =
        .next (finishInitCtrl (if pollReady n (pairByte f1) then if pollReady n (pairByte f2) then three else two else one)) ∧
      AfterPoll n 13 6 (setUp4 s) one (pollReady n (pairByte f1)) (sampleCount n (pairByte f1)) ∧
      AfterPoll n 13 6 one two (pollReady n (pairByte f2)) (sampleCount n (pairByte f2)) ∧
      AfterPoll n 13 6 two three (pollReady n (pairByte f3)) (sampleCount n (pairByte f3)) := by
  subst hn hf1
  have draws2 : rdataAt (polled4 .dcP 0x0C (setUp4 s)) = f2 := (rdataAt_polled4 ..).trans hf2.symm
  have draws3 : rdataAt (polled4 .clrP 0x01 (polled4 .dcP 0x0C (setUp4 s))) = f3 := by
    rw [rdataAt_polled4, draws2, hf3]
    rfl
  exact ⟨_, _, _, draws2 ▸ execInitCtrl_eq4 a hN hm, afterPoll_polled4 .dcP 0x0C hN rfl (rdataAt_setUp4 s),
    afterPoll_polled4 .clrP 0x01 hN rfl draws2, afterPoll_polled4 .emP 0x06 hN rfl draws3⟩

/-- Settles O22: the parts before the tail add 18 events in M8 and 32 in M4, each checked write 12 + k or 13 + 6k, and a poll that
times out has k = N. -/
theorem initCtrlEventCounts : Obligations.InitCtrlEventCounts := by
  intro a s hread hN n f1 f2 f3 count ok
  obtain ⟨hm, -⟩ | ⟨hm, -⟩ := hread
  · have hcount (f) : count f = sampleCount n f := if_pos hm
    have hok (f) : ok f = pollReady n f := by simp only [ok, hm, pollOk]
    obtain ⟨one, two, three, run, h1, h2, h3⟩ := execInitCtrl_polls8 (n := n) (f1 := f1) (f2 := f2) (f3 := f3) a hN hm
      rfl rfl (by simp only [f2, hm, pollDraws]) (by simp only [f3, hm, pollDraws])
    obtain ⟨hall, hfirst, hsecond, hthird⟩ := finishInitCtrl_outcomes h1 h2 h3 rfl
    have hsetUp := setUp8_trace_length s
    simp only [hok, hcount]
    refine ⟨_, run, fun f => ⟨sampleCount_pos hN _, sampleCount_le n _⟩, fun _ => ⟨?_, ?_, ?_, ?_⟩,
      fun h => absurd (hm.symm.trans h) (by decide)⟩
    · exact fun h => (hall h).imp_right (by omega)
    · exact fun h => (hfirst h).imp_right (by omega)
    · exact fun h => (hsecond h).imp_right (by omega)
    · exact fun h => (hthird h).imp_right (by omega)
  · have hcount (f) : count f = sampleCount n (pairByte f) := if_neg (by simp [hm])
    have hok (f) : ok f = pollReady n (pairByte f) := by simp only [ok, hm, pollOk]
    obtain ⟨one, two, three, run, h1, h2, h3⟩ := execInitCtrl_polls4 (n := n) (f1 := f1) (f2 := f2) (f3 := f3) a hN hm
      rfl rfl (by simp only [f2, hm, pollDraws]) (by simp only [f3, hm, pollDraws])
    obtain ⟨hall, hfirst, hsecond, hthird⟩ := finishInitCtrl_outcomes h1 h2 h3 rfl
    have hsetUp := setUp4_trace_length s
    simp only [hok, hcount]
    refine ⟨_, run, fun f => ⟨sampleCount_pos hN _, sampleCount_le n _⟩, fun h => absurd (hm.symm.trans h) (by decide),
      fun _ => ⟨?_, ?_, ?_, ?_⟩⟩
    · exact fun h => (hall h).imp_right (by omega)
    · exact fun h => (hfirst h).imp_right (by omega)
    · exact fun h => (hsecond h).imp_right (by omega)
    · exact fun h => (hthird h).imp_right (by omega)

end Sys2Proof.Machine

/-! # Power-on reset

The state of R280 and the reset that interrupts a command (70_reset_and_hazards.md R281). -/

namespace Sys2Proof.Machine

/-- R62: the block is ready when it is idle and no response waits. -/
theorem cmdReady_iff (s : State) : cmdReady s = true ↔ s.seq = .idle ∧ s.rspValid = false := by
  simp [cmdReady]

@[simp] theorem powerOnReset_cmdReady (s : State) : cmdReady (powerOnReset s) = true :=
  (cmdReady_iff _).2 ⟨powerOnReset_seq s, powerOnReset_rspValid s⟩

/-- Settles O47: the registers are read off the reset state, and the block is ready because it is idle with no response waiting. -/
theorem powerOnState : Obligations.PowerOnState := by
  have hready : cmdReady State.reset = true := (cmdReady_iff _).2 ⟨rfl, rfl⟩
  exact ⟨rfl, rfl, rfl, rfl, rfl, rfl, hready⟩

/-- Settles O48: reset comes before the running command, so the step is `powerOnReset`, which keeps the histories of events and
responses and gives the block's registers their reset values. -/
theorem resetAbandonsTheCommand : Obligations.ResetAbandonsTheCommand := by
  intro s hN hreset
  have hvalid : s.cfg.valid = true := (config_valid_iff s.cfg).2 (Nat.one_le_iff_ne_zero.2 hN)
  exact ⟨powerOnReset s, step_of_reset hvalid hreset, powerOnReset_mode s, powerOnReset_lines s, powerOnReset_seq s,
    powerOnReset_is s, powerOnReset_fault s, powerOnReset_rspValid s, powerOnReset_delivered s, powerOnReset_trace s,
    powerOnReset_cmdReady s⟩

end Sys2Proof.Machine

/-! # Encoding

The round trips between packets and instructions (30_encoding.md R70 to R90). -/

namespace Sys2Proof.Machine

open Sys2Proof.Laws

/-- Settles O2: the round trip of each row of the opcode table. -/
theorem decodeOfEncodeIsIdentity : Obligations.DecodeOfEncodeIsIdentity := by
  intro i
  change RoundTrip.Statement i
  cases i with
  | init arg => exact RoundTrip.init arg
  | deinit arg => exact RoundTrip.deinit arg
  | writeInstr v => exact RoundTrip.writeInstr v
  | writeData v => exact RoundTrip.writeData v
  | readInstr arg => exact RoundTrip.readInstr arg
  | readData arg => exact RoundTrip.readData arg
  | waitBusy arg => exact RoundTrip.waitBusy arg
  | initCtrl arg => exact RoundTrip.initCtrl arg
  | reserved0 arg => exact RoundTrip.reserved0 arg
  | reserved9 arg => exact RoundTrip.reserved9 arg
  | reservedA arg => exact RoundTrip.reservedA arg
  | reservedB arg => exact RoundTrip.reservedB arg
  | reservedC arg => exact RoundTrip.reservedC arg
  | reservedD arg => exact RoundTrip.reservedD arg
  | reservedE arg => exact RoundTrip.reservedE arg
  | reservedF arg => exact RoundTrip.reservedF arg
  | cwri v => exact RoundTrip.cwri v
  | cwrd v => exact RoundTrip.cwrd v
  | portInit w => exact RoundTrip.portInit w
  | portDeinit => exact RoundTrip.portDeinit
  | setRs => exact RoundTrip.setRs
  | clrRs => exact RoundTrip.clrRs
  | setRw => exact RoundTrip.setRw
  | clrRw => exact RoundTrip.clrRw
  | setCe => exact RoundTrip.setCe
  | clrCe => exact RoundTrip.clrCe
  | dirIn4 => exact RoundTrip.dirIn4
  | dirIn8 => exact RoundTrip.dirIn8
  | dirOut4 => exact RoundTrip.dirOut4
  | dirOut8 => exact RoundTrip.dirOut8
  | out4 n => exact RoundTrip.out4 n
  | out8 v => exact RoundTrip.out8 v
  | in4 => exact RoundTrip.in4
  | in8 => exact RoundTrip.in8
  | delay us => exact RoundTrip.delay us
  | funcset8 => exact RoundTrip.funcset8
  | dispctrl => exact RoundTrip.dispctrl
  | clear => exact RoundTrip.clear
  | entry => exact RoundTrip.entry
  | prelim => exact RoundTrip.prelim
  | funcset4 => exact RoundTrip.funcset4
  | setDdram addr => exact RoundTrip.setDdram addr

/-- The encoding of a command's instruction is its word: the sixteen OPs one by one. -/
theorem encode_decodeCommand_cmdWord (op : Nibble) (arg : Byte) :
    encode (decodeCommand (cmdWord op arg)) = .command (cmdWord op arg) := by
  unfold decodeCommand
  rw [opField_cmdWord, argField_cmdWord]
  fin_cases op <;> rfl

theorem decodeCommand_wellFormed (w : CmdWord) : (decodeCommand w).wellFormed = true := by
  unfold decodeCommand
  split <;> rfl

/-- Settles O3: a word is its two fields, and they are what its instruction keeps. -/
theorem commandWordsDecodeWithoutLoss : Obligations.CommandWordsDecodeWithoutLoss := by
  intro w
  refine ⟨decodeCommand w, rfl, decodeCommand_wellFormed w, ?_⟩
  rw [← cmdWord_fields w]
  exact encode_decodeCommand_cmdWord _ _

/-- Settles O1: the seventeen words, one by one. -/
theorem writtenWordsDecode : Obligations.WrittenWordsDecode := by
  unfold Obligations.WrittenWordsDecode
  decide

end Sys2Proof.Machine

/-! # What the polls make of their answers

WAIT_BUSY and INIT_CTRL in both widths, whatever the LCD answers: how WAIT_BUSY ends (44_busy_poll.md R192, R194, R197, R198)
and the whole end state of INIT_CTRL (45_init_fsm.md R211 to R217). -/

namespace Sys2Proof.Machine

/-! ## WAIT_BUSY -/

/-- How a poll ends, by the answers alone: ready, or N samples and TIMEOUT. -/
theorem poll_outcome {n : Nat} (hn : 1 ≤ n) (f : Nat → Byte) :
    (if pollReady n f then Status.ok else .timeout) = .ok ∧ busy (f (sampleCount n f - 1)) = false ∨
    (if pollReady n f then Status.ok else .timeout) = .timeout ∧ busy (f (sampleCount n f - 1)) = true ∧
      sampleCount n f = n := by
  rw [busy_last hn]
  cases h : pollReady n f with
  | true => exact .inl ⟨rfl, rfl⟩
  | false => exact .inr ⟨rfl, rfl, sampleCount_of_not_ready h⟩

/-- Settles O17: the equation of the poll in either width, with the bounds on its count. -/
theorem waitBusyAlwaysCompletes : Obligations.WaitBusyAlwaysCompletes := by
  rintro a s (⟨hm, hin⟩ | ⟨hm, hin⟩) hN
  · refine ⟨_, (exec_waitBusy a s).trans (pollCommand_eq8 hN hm hin), sampleCount_pos hN _, sampleCount_le _ _,
      poll_outcome hN (rdataAt s), rfl, rfl, rfl, rfl, fun _ => ?_, fun h4 => ?_, rfl, rfl, rfl, .inl ⟨hm, hin⟩⟩
    · simp [Nat.add_assoc]
    · cases hm.symm.trans h4
  · refine ⟨_, (exec_waitBusy a s).trans (pollCommand_eq4 hN hm hin), sampleCount_pos hN _, sampleCount_le _ _,
      poll_outcome hN (pairByte (rdataAt s)), rfl, rfl, rfl, rfl, fun h8 => ?_, fun _ => ?_, rfl, rfl, rfl, .inr ⟨hm, hin⟩⟩
    · cases hm.symm.trans h8
    · simp [Nat.add_assoc]

/-- Settles O18: count and result are functions of the busy bits. -/
theorem pollOutcomeDependsOnBusyBitOnly : Obligations.PollOutcomeDependsOnBusyBitOnly := by
  rintro a b s s' hread hread' hmode hN hcfg hbits8 hbits4
  obtain ⟨hm, hin⟩ | ⟨hm, hin⟩ := hread
  · have hm' := hmode.symm.trans hm
    have hin' : s'.lines.dir8 = .input := by simpa [busReadable, hm'] using hread'
    obtain ⟨hcount, hready⟩ := sampleCount_congr (n := s.cfg.busyRetryMax) fun i => hbits8 i hm
    refine ⟨_, _, (exec_waitBusy a s).trans (pollCommand_eq8 hN hm hin),
      (exec_waitBusy b s').trans (pollCommand_eq8 (hcfg ▸ hN) hm' hin'), ?_, ?_⟩
    · simp [hready, ← hcfg]
    · simp [hcount, ← hcfg]
  · have hm' := hmode.symm.trans hm
    have hin' : s'.lines.dir4 = .input := by simpa [busReadable, hm'] using hread'
    obtain ⟨hcount, hready⟩ := sampleCount_congr (n := s.cfg.busyRetryMax) (f := pairByte (rdataAt s))
      (g := pairByte (rdataAt s')) fun i => by rw [busy_pairByte, busy_pairByte, hbits4 i hm]
    refine ⟨_, _, (exec_waitBusy a s).trans (pollCommand_eq4 hN hm hin),
      (exec_waitBusy b s').trans (pollCommand_eq4 (hcfg ▸ hN) hm' hin'), ?_, ?_⟩
    · simp [hready, ← hcfg]
    · simp [hcount, ← hcfg]

/-! ## INIT_CTRL in M8 -/

/-- The tail of INIT_CTRL in M8, begun in `s`, after a checked write of `v` whose poll took k samples, the last of c drawn so far;
`es` are the events so far. -/
def tail8 (s : State) (x : InitState) (v : Byte) (c k : Nat) (es : List Event) : State :=
  { s with
    is := x
    lines := { s.lines with rs := .low, rw := .high, ce := .low, dir8 := .input, dout := .byte v }
    sample := rdataAt s (c - 1)
    k := k
    answers := s.answers.drop c
    draws := s.draws + c
    trace := s.trace ++ es }

/-- The events of INIT_CTRL in M8 up to its first poll, whose k samples are of the answers f. -/
def setUpTrace8 (s : State) (k : Nat) (f : Nat → Byte) : List Event :=
  evs (w8 false 0x3C) ++ [ev (.delay s.cfg.delayFs1Us)] ++ evs (w8 false 0x3C) ++ [ev (.delay s.cfg.delayFs2Us)] ++
    evs (w8 false 0x0C) ++ pollTrace8 k f

/-- The first checked write of the tail. -/
theorem polled8_setUp8 {s : State} {n k : Nat} {f : Nat → Byte} (hn : s.cfg.busyRetryMax = n) (hf : rdataAt s = f)
    (hk : sampleCount n f = k) :
    polled8 .dcP 0x0C (setUp8 s) = tail8 s .dcP 0x0C k k (setUpTrace8 s k f) := by
  subst hn hf hk
  simp [polled8, setUp8, tail8, setUpTrace8, rdataAt_eq]

/-- Every further one draws the answers after those drawn so far. -/
theorem polled8_tail8 {s : State} {n k' : Nat} {f' : Nat → Byte} (x y : InitState) (v w : Byte) (c k : Nat)
    (es : List Event) (hN : 1 ≤ n) (hn : s.cfg.busyRetryMax = n) (hf : (fun i => rdataAt s (c + i)) = f')
    (hk : sampleCount n f' = k') :
    polled8 y w (tail8 s x v c k es) = tail8 s y w (c + k') k' (es ++ (evs (w8 false w) ++ pollTrace8 k' f')) := by
  have draws : rdataAt (tail8 s x v c k es) = f' := (rdataAt_drop s _ c rfl rfl).trans hf
  have hpos : 1 ≤ k' := hk ▸ sampleCount_pos hN f'
  have last : f' (k' - 1) = rdataAt s (c + k' - 1) := by
    rw [← hf, Nat.add_sub_assoc hpos]
  simp only [polled8, draws]
  simp [tail8, hn, hk, last, Nat.add_assoc]

/-- The end of INIT_CTRL after a poll of the answers f' (R216). -/
theorem finishInitCtrl_tail8 {s : State} {n k : Nat} {f' : Nat → Byte} (x : InitState) (v : Byte) (c : Nat) (es : List Event)
    (hN : 1 ≤ n) (hf : (fun i => rdataAt s (c + i)) = f') (hk : sampleCount n f' = k) :
    finishInitCtrl (tail8 s x v (c + k) k es) =
      { s with
        lines := { s.lines with rs := .low, rw := .high, ce := .low, dir8 := .input, dout := .byte v }
        sample := rdataAt s (c + k - 1)
        k := k
        answers := s.answers.drop (c + k)
        draws := s.draws + (c + k)
        trace := s.trace ++ es
        rspStatus := if pollReady n f' then .ok else .timeout
        rspData := 0x00, rspValid := true, seq := .idle, is := .idle } := by
  have hpos : 1 ≤ k := hk ▸ sampleCount_pos hN f'
  have last : (tail8 s x v (c + k) k es).sample = f' (sampleCount n f' - 1) := by
    rw [hk, ← hf]
    exact congrArg (rdataAt s) (Nat.add_sub_assoc hpos c)
  rw [finishInitCtrl, pollStatus_last hN last]
  rfl

/-- INIT_CTRL in M8 by the answers its polls draw. -/
theorem execInitCtrl_tail8 {s : State} {n k1 k2 k3 : Nat} {f1 f2 f3 : Nat → Byte} (a : Byte) (hN : 1 ≤ n) (hm : s.mode = .m8)
    (hn : s.cfg.busyRetryMax = n) (hf1 : rdataAt s = f1) (hk1 : sampleCount n f1 = k1)
    (hf2 : (fun i => f1 (k1 + i)) = f2) (hk2 : sampleCount n f2 = k2) (hf3 : (fun i => f2 (k2 + i)) = f3)
    (hk3 : sampleCount n f3 = k3) :
    let one := setUpTrace8 s k1 f1
    let two := one ++ (evs (w8 false 0x01) ++ pollTrace8 k2 f2)
    exec (.initCtrl a) s =
      .next (finishInitCtrl
        (if pollReady n f1 then
          if pollReady n f2 then
            tail8 s .emP 0x06 (k1 + k2 + k3) k3 (two ++ (evs (w8 false 0x06) ++ pollTrace8 k3 f3))
          else tail8 s .clrP 0x01 (k1 + k2) k2 two
        else tail8 s .dcP 0x0C k1 k1 one)) := by
  intro one two
  have draws2 : rdataAt (tail8 s .dcP 0x0C k1 k1 one) = f2 :=
    (rdataAt_drop s _ k1 rfl rfl).trans (by rw [hf1, hf2])
  have draws3 : (fun i => rdataAt s (k1 + k2 + i)) = f3 := by
    rw [← hf3, ← hf2, hf1]
    simp only [Nat.add_assoc]
  have run := execInitCtrl_eq8 a (hn ▸ hN) hm
  simp only [polled8_setUp8 hn hf1 hk1, hf1, hn] at run
  rw [draws2, polled8_tail8 .dcP .clrP 0x0C 0x01 k1 k1 one hN hn (by rw [hf1, hf2]) hk2,
    polled8_tail8 .clrP .emP 0x01 0x06 (k1 + k2) k2 two hN hn draws3 hk3] at run
  exact run

/-- Settles O20: the last poll is the first that times out or the third. -/
theorem initCtrlInM8 : Obligations.InitCtrlInM8 := by
  intro a s hm hin hN n f1 k1 f2 k2 f3 k3 ok1 ok2 taken
  have hf1 : rdataAt s = f1 := rfl
  refine (execInitCtrl_tail8 a hN hm rfl hf1 (k1 := k1) rfl (f2 := f2) rfl (k2 := k2) rfl (f3 := f3) rfl (k3 := k3)
    rfl).trans (congrArg _ ?_)
  cases hready1 : pollReady n f1 with
  | false =>
    have fin := finishInitCtrl_tail8 (s := s) (n := n) (k := k1) .dcP 0x0C 0 (setUpTrace8 s k1 f1) hN
      (by simp only [hf1, Nat.zero_add]) rfl
    rw [Nat.zero_add] at fin
    rw [if_neg Bool.false_ne_true, fin]
    simp [ok1, taken, hready1, setUpTrace8, hf1]
  | true =>
    cases hready2 : pollReady n f2 with
    | false =>
      rw [if_pos rfl, if_neg Bool.false_ne_true, finishInitCtrl_tail8 (n := n) (k := k2) (f' := f2) .clrP 0x01 k1 _ hN rfl rfl]
      simp [ok1, ok2, taken, hready1, hready2, setUpTrace8, hf1]
    | true =>
      rw [if_pos rfl, if_pos rfl, finishInitCtrl_tail8 (n := n) (k := k3) (f' := f3) .emP 0x06 (k1 + k2) _ hN
        (by simp only [f3, f2, f1, Nat.add_assoc]) rfl]
      simp [ok1, ok2, taken, hready1, hready2, setUpTrace8, hf1]

/-! ## INIT_CTRL in M4 -/

/-- The same as `tail8` in M4, where a sample is a pair of answers (R214, 44_busy_poll.md R191). -/
def tail4 (s : State) (x : InitState) (v : Byte) (c k : Nat) (es : List Event) : State :=
  { s with
    is := x
    lines := { s.lines with rs := .low, rw := .high, ce := .low, dir4 := .input, dout := .nibble (lowNibble v) }
    hi := lowNibble (rdataAt s (2 * (c - 1)))
    sample := pairByte (rdataAt s) (c - 1)
    k := k
    answers := s.answers.drop (2 * c)
    draws := s.draws + 2 * c
    trace := s.trace ++ es }

/-- The events of INIT_CTRL in M4 up to its first poll, whose k samples are of the answers f. -/
def setUpTrace4 (s : State) (k : Nat) (f : Nat → Byte) : List Event :=
  evs (w4n false 0x3) ++ evs (w4 false s.cfg.funcset4Code) ++ [ev (.delay s.cfg.delayFs1Us)] ++
    evs (w4 false s.cfg.funcset4Code) ++ [ev (.delay s.cfg.delayFs2Us)] ++ evs (w4 false 0x0C) ++ pollTrace4 k f

theorem polled4_setUp4 {s : State} {n k : Nat} {f : Nat → Byte} (hn : s.cfg.busyRetryMax = n) (hf : rdataAt s = f)
    (hk : sampleCount n (pairByte f) = k) :
    polled4 .dcP 0x0C (setUp4 s) = tail4 s .dcP 0x0C k k (setUpTrace4 s k f) := by
  subst hn hf hk
  simp [polled4, setUp4, tail4, setUpTrace4, rdataAt_eq]

/-- Pairs of the answers after c pairs are the pairs after them. -/
theorem pairByte_drop (f : Nat → Byte) (c : Nat) :
    pairByte (fun i => f (2 * c + i)) = fun i => pairByte f (c + i) := by
  funext i
  simp only [pairByte, Nat.mul_add, Nat.add_assoc]

theorem polled4_tail4 {s : State} {n k' : Nat} {f' : Nat → Byte} (x y : InitState) (v w : Byte) (c k : Nat)
    (es : List Event) (hN : 1 ≤ n) (hn : s.cfg.busyRetryMax = n) (hf : (fun i => rdataAt s (2 * c + i)) = f')
    (hk : sampleCount n (pairByte f') = k') :
    polled4 y w (tail4 s x v c k es) = tail4 s y w (c + k') k' (es ++ (evs (w4 false w) ++ pollTrace4 k' f')) := by
  have draws : rdataAt (tail4 s x v c k es) = f' := (rdataAt_drop s _ (2 * c) rfl rfl).trans hf
  have hpos : 1 ≤ k' := hk ▸ sampleCount_pos hN _
  have lastHigh : f' (2 * (k' - 1)) = rdataAt s (2 * (c + k' - 1)) := by
    rw [← hf, Nat.add_sub_assoc hpos, Nat.mul_add]
  have last : pairByte f' (k' - 1) = pairByte (rdataAt s) (c + k' - 1) := by
    rw [← hf, pairByte_drop, Nat.add_sub_assoc hpos]
  simp only [polled4, draws]
  simp [tail4, hn, hk, lastHigh, last, Nat.mul_add, Nat.add_assoc]

theorem finishInitCtrl_tail4 {s : State} {n k : Nat} {f' : Nat → Byte} (x : InitState) (v : Byte) (c : Nat) (es : List Event)
    (hN : 1 ≤ n) (hf : (fun i => rdataAt s (2 * c + i)) = f') (hk : sampleCount n (pairByte f') = k) :
    finishInitCtrl (tail4 s x v (c + k) k es) =
      { s with
        lines := { s.lines with rs := .low, rw := .high, ce := .low, dir4 := .input, dout := .nibble (lowNibble v) }
        hi := lowNibble (rdataAt s (2 * (c + k - 1)))
        sample := pairByte (rdataAt s) (c + k - 1)
        k := k
        answers := s.answers.drop (2 * (c + k))
        draws := s.draws + 2 * (c + k)
        trace := s.trace ++ es
        rspStatus := if pollReady n (pairByte f') then .ok else .timeout
        rspData := 0x00, rspValid := true, seq := .idle, is := .idle } := by
  have hpos : 1 ≤ k := hk ▸ sampleCount_pos hN _
  have last : (tail4 s x v (c + k) k es).sample = pairByte f' (sampleCount n (pairByte f') - 1) := by
    rw [hk, ← hf, pairByte_drop]
    exact congrArg (pairByte (rdataAt s)) (Nat.add_sub_assoc hpos c)
  rw [finishInitCtrl, pollStatus_last hN last]
  rfl

/-- INIT_CTRL in M4 by the answers its polls draw. -/
theorem execInitCtrl_tail4 {s : State} {n k1 k2 k3 : Nat} {f1 f2 f3 : Nat → Byte} (a : Byte) (hN : 1 ≤ n) (hm : s.mode = .m4)
    (hn : s.cfg.busyRetryMax = n) (hf1 : rdataAt s = f1) (hk1 : sampleCount n (pairByte f1) = k1)
    (hf2 : (fun i => f1 (2 * k1 + i)) = f2) (hk2 : sampleCount n (pairByte f2) = k2)
    (hf3 : (fun i => f2 (2 * k2 + i)) = f3) (hk3 : sampleCount n (pairByte f3) = k3) :
    let one := setUpTrace4 s k1 f1
    let two := one ++ (evs (w4 false 0x01) ++ pollTrace4 k2 f2)
    exec (.initCtrl a) s =
      .next (finishInitCtrl
        (if pollReady n (pairByte f1) then
          if pollReady n (pairByte f2) then
            tail4 s .emP 0x06 (k1 + k2 + k3) k3 (two ++ (evs (w4 false 0x06) ++ pollTrace4 k3 f3))
          else tail4 s .clrP 0x01 (k1 + k2) k2 two
        else tail4 s .dcP 0x0C k1 k1 one)) := by
  intro one two
  have draws2 : rdataAt (tail4 s .dcP 0x0C k1 k1 one) = f2 :=
    (rdataAt_drop s _ (2 * k1) rfl rfl).trans (by rw [hf1, hf2])
  have draws3 : (fun i => rdataAt s (2 * (k1 + k2) + i)) = f3 := by
    rw [← hf3, ← hf2, hf1]
    simp only [Nat.mul_add, Nat.add_assoc]
  have run := execInitCtrl_eq4 a (hn ▸ hN) hm
  simp only [polled4_setUp4 hn hf1 hk1, hf1, hn] at run
  rw [draws2, polled4_tail4 .dcP .clrP 0x0C 0x01 k1 k1 one hN hn (by rw [hf1, hf2]) hk2,
    polled4_tail4 .clrP .emP 0x01 0x06 (k1 + k2) k2 two hN hn draws3 hk3] at run
  exact run

/-- Settles O21: the last poll is the first that times out or the third. -/
theorem initCtrlInM4 : Obligations.InitCtrlInM4 := by
  intro a s hm hin hN n f1 k1 f2 k2 f3 k3 code ok1 ok2 taken
  have hf1 : rdataAt s = f1 := rfl
  refine (execInitCtrl_tail4 a hN hm rfl hf1 (k1 := k1) rfl (f2 := f2) rfl (k2 := k2) rfl (f3 := f3) rfl (k3 := k3)
    rfl).trans (congrArg _ ?_)
  cases hready1 : pollReady n (pairByte f1) with
  | false =>
    have fin := finishInitCtrl_tail4 (s := s) (n := n) (k := k1) .dcP 0x0C 0 (setUpTrace4 s k1 f1) hN
      (by simp only [hf1, Nat.mul_zero, Nat.zero_add]) rfl
    rw [Nat.zero_add] at fin
    rw [if_neg Bool.false_ne_true, fin]
    simp [ok1, taken, hready1, setUpTrace4, hf1, code, lowNibble]
  | true =>
    cases hready2 : pollReady n (pairByte f2) with
    | false =>
      rw [if_pos rfl, if_neg Bool.false_ne_true,
        finishInitCtrl_tail4 (n := n) (k := k2) (f' := f2) .clrP 0x01 k1 _ hN rfl rfl]
      simp [ok1, ok2, taken, hready1, hready2, setUpTrace4, hf1, code, lowNibble]
    | true =>
      rw [if_pos rfl, if_pos rfl, finishInitCtrl_tail4 (n := n) (k := k3) (f' := f3) .emP 0x06 (k1 + k2) _ hN
        (by simp only [f3, f2, f1, Nat.mul_add, Nat.add_assoc]) rfl]
      simp [ok1, ok2, taken, hready1, hready2, setUpTrace4, hf1, code, lowNibble]

end Sys2Proof.Machine

/-! # One event of a running command

What a step of a command that executes does, said of the state apart from SEQ, so that whole meanings, which leave SEQ alone, can
be compared with it. -/

namespace Sys2Proof.Machine

/-- `u` with a command running in it, at place i of its part and event j of its list. -/
def running (op : Op) (arg : Byte) (j i : Nat) (bound : Byte) (u : State) : State :=
  { u with seq := .run op arg j i bound }

theorem running_of_seq {op : Op} {arg : Byte} {j i : Nat} {bound : Byte} {s : State} (h : s.seq = .run op arg j i bound) :
    running op arg j i bound s = s := by
  rw [running, ← h]

/-! ## A command that executes -/

/-- A step runs the command `op arg` on in `s`: no refusal, no reset and no response come first, and the command is not turned
away. -/
structure Executes (op : Op) (arg : Byte) (s : State) : Prop where
  valid : s.cfg.valid = true
  noReset : s.resetReq = false
  noResponse : s.rspValid = false
  accepted : rejection op arg s = none

/-- Whether a command is turned away depends on MODE (60_exceptions.md R265). -/
theorem rejection_none_of_mode {op : Op} {arg : Byte} {s t : State} (hm : t.mode = s.mode) (h : rejection op arg s = none) :
    rejection op arg t = none := by
  rw [executes_iff] at h ⊢
  rwa [hm]

theorem Executes.of_kept {op : Op} {arg : Byte} {s t : State} (h : Executes op arg s) (hk : Kept s t) : Executes op arg t :=
  ⟨hk.cfg ▸ h.valid, hk.resetReq ▸ h.noReset, hk.rspValid ▸ h.noResponse, rejection_none_of_mode hk.mode h.accepted⟩

/-! ## Between two events -/

/-- `s` after the event `e` at place i, with what the pseudocode does before the next event (log 8). -/
def eventDone (p : Part) (i : Nat) (e : PortOp) (bound : Byte) (s : State) : State :=
  afterEvent p i e (boundAfter e bound s) (perform e s)

/-- Between two events SAMPLE, HI and K are written and nothing else. -/
theorem afterEvent_regs (p : Part) (i : Nat) (e : PortOp) (bound : Byte) (s : State) :
    ∃ sample hi k, afterEvent p i e bound s = { s with sample := sample, hi := hi, k := k } := by
  have cleared := afterEvent_eq p i e bound s (fun t => { t with sample := 0, hi := 0, k := 0 }) fun _ _ _ _ => rfl
  refine ⟨(afterEvent p i e bound s).sample, (afterEvent p i e bound s).hi, (afterEvent p i e bound s).k, ?_⟩
  exact congrArg (fun t : State =>
    { t with sample := (afterEvent p i e bound s).sample, hi := (afterEvent p i e bound s).hi,
             k := (afterEvent p i e bound s).k }) cleared

theorem eventDone_kept {p : Part} {i : Nat} {e : PortOp} {bound : Byte} {s : State} (h : violation e s = none) :
    Kept s (eventDone p i e bound s) := by
  obtain ⟨sample, hi, k, hregs⟩ := afterEvent_regs p i e (boundAfter e bound s) (perform e s)
  rw [eventDone, hregs]
  exact (emit_kept (emit_of_legal h)).regs sample hi k _

@[simp] theorem eventDone_is (p : Part) (i : Nat) (e : PortOp) (bound : Byte) (s : State) :
    (eventDone p i e bound s).is = s.is := by
  rw [eventDone, afterEvent_eq p i e _ _ (·.is) fun _ _ _ _ => rfl, perform_is]

@[simp] theorem eventDone_lines (p : Part) (i : Nat) (e : PortOp) (bound : Byte) (s : State) :
    (eventDone p i e bound s).lines = performLines e s.lines := by
  rw [eventDone, afterEvent_eq p i e _ _ (·.lines) fun _ _ _ _ => rfl, perform_lines]

@[simp] theorem eventDone_trace (p : Part) (i : Nat) (e : PortOp) (bound : Byte) (s : State) :
    (eventDone p i e bound s).trace = s.trace ++ [⟨e, answerOf e s⟩] := by
  rw [eventDone, afterEvent_trace, perform_trace]

/-! ## The step -/

theorem perform_running (op : Op) (arg : Byte) (j i : Nat) (bound : Byte) (e : PortOp) (s : State) :
    perform e (running op arg j i bound s) = running op arg j i bound (perform e s) := by
  cases e <;> rfl

/-- What the pseudocode does between two events does not concern SEQ. -/
theorem afterEvent_running (op : Op) (arg : Byte) (j i i' : Nat) (bound b : Byte) (p : Part) (e : PortOp) (s : State) :
    afterEvent p i' e b (running op arg j i bound s) = running op arg j i bound (afterEvent p i' e b s) := by
  have capture_running : capture p i' e b (running op arg j i bound s) = running op arg j i bound (capture p i' e b s) := by
    unfold capture
    split
    · rfl
    · split <;> simp_all [running, assembledByte]
  have count_running (t : State) :
      countSample p i' e (running op arg j i bound t) = running op arg j i bound (countSample p i' e t) := by
    unfold countSample
    split
    · rfl
    · rfl
    · split
      · simp_all [running]
      · split <;> simp_all [running]
  rw [afterEvent, capture_running, count_running, afterEvent]

/-- The step of a command that executes: the event at its place, then the end of the part or the next place (10_state.md R30). -/
theorem step_running {op : Op} {arg : Byte} {p : Part} {i : Nat} {e : PortOp} {s : State} (h : Executes op arg s)
    (hp : partOf op arg s = p) (he : nextEvent p i s = some e) (hv : violation e s = none) (j : Nat) (bound : Byte) :
    step (running op arg j i bound s) = .next
      (if partOver p i e (eventDone p i e bound s) then completePart op arg (j + 1) (eventDone p i e bound s)
      else running op arg (j + 1) (i + 1) (boundAfter e bound s) (eventDone p i e bound s)) := by
  subst hp
  have hpart : partOf op arg (running op arg j i bound s) = partOf op arg s := partOf_congr rfl rfl rfl
  have hrej : rejection op arg (running op arg j i bound s) = none := rejection_none_of_mode rfl h.accepted
  have hnext : nextEvent (partOf op arg s) i (running op arg j i bound s) = some e := by
    rw [← he]
    rfl
  have hstep := step_of_run (s := running op arg j i bound s) h.valid h.noReset h.noResponse rfl
  have hemit : emit e (running op arg j i bound s) = .next (running op arg j i bound (perform e s)) := by
    rw [← perform_running]
    exact emit_of_legal hv
  rw [hstep, tick_executes hrej, nextStep, hpart]
  have hbound : boundAfter e bound (running op arg j i bound s) = boundAfter e bound s := rfl
  simp only [hnext, hemit, andThen_next, afterEvent_running, hbound]
  rw [apply_ite Host.Outcome.next]
  exact congrArg₂ (ite _) (congrArg Host.Outcome.next (completePart_seq ..)) rfl

/-! ## The places of a poll in M8 (44_busy_poll.md R190) -/

theorem pollEvent_m8 {s : State} (i : Nat) (hm : s.mode = .m8) : nextEvent .poll i s = some (pollEvent8 i s) := by
  simp [nextEvent, pollEvent, hm]

theorem partOver_poll8 {s : State} (i : Nat) (e : PortOp) (hm : s.mode = .m8) :
    partOver .poll i e s = decide (e = .clrCe) := by
  simp [partOver, hm]

/-- SET_CE opens the poll and `K <- 0` stands after it. -/
theorem afterEvent_poll8_setCe {s : State} (bound : Byte) (hm : s.mode = .m8) :
    afterEvent .poll 2 .setCe bound s = { s with k := 0 } := by
  simp [afterEvent, capture, countSample, bringsHighNibble, assemblesSample, pollOpening, hm]

/-- A sample is taken with each IN8. -/
theorem afterEvent_poll8_in8 {s : State} (q : Nat) (bound : Byte) (hm : s.mode = .m8) :
    afterEvent .poll (3 + q) .in8 bound s = { s with sample := bound, k := s.k + 1 } := by
  have hq : 3 + q + 1 ≠ 3 := by omega
  simp [afterEvent, capture, countSample, bringsHighNibble, assemblesSample, assembledByte, pollOpening, hm, hq]

theorem afterEvent_poll8_other {s : State} {i : Nat} {e : PortOp} (bound : Byte) (hm : s.mode = .m8) (hi : i ≠ 2)
    (h4 : e ≠ .in4) (h8 : e ≠ .in8) : afterEvent .poll i e bound s = s := by
  simp [afterEvent, capture, countSample, bringsHighNibble, assemblesSample, pollOpening, hm, hi, h4, h8]

theorem eventDone_poll8_setCe {s : State} (bound : Byte) (hm : s.mode = .m8) :
    eventDone .poll 2 .setCe bound s = { perform .setCe s with k := 0 } :=
  afterEvent_poll8_setCe _ ((perform_mode _ s).trans hm)

theorem eventDone_poll8_in8 {s : State} (q : Nat) (bound : Byte) (hm : s.mode = .m8) :
    eventDone .poll (3 + q) .in8 bound s = sampled8 s :=
  afterEvent_poll8_in8 q _ ((perform_mode _ s).trans hm)

theorem eventDone_poll8_other {s : State} (i : Nat) (e : PortOp) (bound : Byte) (hm : s.mode = .m8) (hi : i ≠ 2)
    (h4 : e ≠ .in4) (h8 : e ≠ .in8) : eventDone .poll i e bound s = perform e s :=
  afterEvent_poll8_other _ ((perform_mode _ s).trans hm) hi h4 h8

/-! ## The places of a 4-bit sample (43_read.md R171, 44_busy_poll.md R191) -/

/-- A sample of a nibble pair begins at place i of the part. -/
def SampleAt (p : Part) (i : Nat) : Prop := (∃ rs, p = .read (r4 rs)) ∧ i = 2 ∨ p = .poll ∧ ∃ q, i = 2 + 6 * q

theorem nibblePhase_eq (q : Nat) {d : Nat} (hd : d < 6) : nibblePhase (2 + 6 * q + d) = d := by
  unfold nibblePhase
  omega

theorem SampleAt.nextEvent {p : Part} {i d : Nat} {s : State} (h : SampleAt p i) (hm : s.mode = .m4) (hd : d < 6) :
    nextEvent p (i + d) s = some (nibbleEvent d) := by
  obtain ⟨⟨rs, rfl⟩, rfl⟩ | ⟨rfl, q, rfl⟩ := h
  · interval_cases d <;> rfl
  · have hplace : 2 + 6 * q + d = 6 * q + d + 2 := by omega
    have hphase := nibblePhase_eq q hd
    rw [hplace] at hphase ⊢
    simp [Machine.nextEvent, pollEvent, pollEvent4, hm, hphase]

theorem SampleAt.bringsHighNibble {p : Part} {i d : Nat} (h : SampleAt p i) (hd : d < 6) (e : PortOp) :
    bringsHighNibble p (i + d) e = decide (e = .in4 ∧ d = 1) := by
  obtain ⟨⟨rs, rfl⟩, rfl⟩ | ⟨rfl, q, rfl⟩ := h
  · have hplace : 2 + d = 3 ↔ d = 1 := by omega
    simp [Machine.bringsHighNibble, hplace]
  · simp [Machine.bringsHighNibble, nibblePhase_eq q hd]

theorem SampleAt.assemblesSample {p : Part} {i d : Nat} (h : SampleAt p i) (hd : d < 6) (e : PortOp) :
    assemblesSample p (i + d) e .m4 = decide (d = 5) := by
  obtain ⟨⟨rs, rfl⟩, rfl⟩ | ⟨rfl, q, rfl⟩ := h
  · have hplace : 2 + d + 1 = 8 ↔ d = 5 := by omega
    simp [Machine.assemblesSample, r4, hplace]
  · have hplace : 2 ≤ 2 + 6 * q + d := by omega
    simp [Machine.assemblesSample, nibblePhase_eq q hd, hplace]

/-- A sample is counted in a poll, with its last event. -/
theorem SampleAt.countSample {p : Part} {i d : Nat} {s : State} (h : SampleAt p i) (hm : s.mode = .m4) (hd : d < 6)
    (e : PortOp) :
    countSample p (i + d) e s = if p = .poll ∧ d = 5 then { s with k := s.k + 1 } else s := by
  have hlast := h.assemblesSample hd e
  obtain ⟨⟨rs, rfl⟩, rfl⟩ | ⟨rfl, q, rfl⟩ := h
  · rfl
  · have hplace : 2 + 6 * q + d + 1 ≠ 2 := by omega
    simp [Machine.countSample, pollOpening, hm, hplace, hlast]

/-- Between the events of a sample nothing is done, but after the first IN4 and after the last CLR_CE. -/
theorem SampleAt.afterEvent_other {p : Part} {i d : Nat} {s : State} (h : SampleAt p i) (hm : s.mode = .m4) (hd : d < 5)
    (h1 : d ≠ 1) (e : PortOp) (bound : Byte) : afterEvent p (i + d) e bound s = s := by
  have h6 : d < 6 := by omega
  have h5 : d ≠ 5 := by omega
  simp [Machine.afterEvent, capture, h.bringsHighNibble h6, h.assemblesSample h6, h.countSample hm h6, hm, h1, h5]

/-- `HI <- In4()`. -/
theorem SampleAt.afterEvent_high {p : Part} {i : Nat} {s : State} (h : SampleAt p i) (hm : s.mode = .m4) (bound : Byte) :
    afterEvent p (i + 1) .in4 bound s = { s with hi := lowNibble bound } := by
  have h6 : 1 < 6 := by decide
  simp [Machine.afterEvent, capture, h.bringsHighNibble h6, h.countSample (s := { s with hi := lowNibble bound }) hm h6]

/-- `SAMPLE <- (HI << 4) | lo`, and in a poll `K <- K + 1`. -/
theorem SampleAt.afterEvent_last {p : Part} {i : Nat} {s : State} (h : SampleAt p i) (hm : s.mode = .m4) (bound : Byte) :
    afterEvent p (i + 5) .clrCe bound s =
      { s with sample := joinNibbles s.hi (lowNibble bound), k := if p = .poll then s.k + 1 else s.k } := by
  have h6 : 5 < 6 := by decide
  have hcapture : capture p (i + 5) .clrCe bound s = { s with sample := joinNibbles s.hi (lowNibble bound) } := by
    simp [capture, h.bringsHighNibble h6, h.assemblesSample h6, assembledByte, hm]
  rw [Machine.afterEvent, hcapture, h.countSample (by exact hm) h6]
  by_cases hp : p = .poll <;> simp [hp]

theorem SampleAt.partOver_inside {p : Part} {i d : Nat} {s : State} (h : SampleAt p i) (hm : s.mode = .m4) (hd : d < 5)
    (e : PortOp) : partOver p (i + d) e s = false := by
  obtain ⟨⟨rs, rfl⟩, rfl⟩ | ⟨rfl, q, rfl⟩ := h
  · have hplace : 2 + d + 1 ≠ 8 := by omega
    simp [partOver, r4, hplace]
  · have h5 : d ≠ 5 := by omega
    simp [partOver, hm, nibblePhase_eq q (show d < 6 by omega), h5]

theorem partOver_poll4_last {s : State} (q : Nat) (e : PortOp) (hm : s.mode = .m4) :
    partOver .poll (2 + 6 * q + 5) e s = pollOver s := by
  have hplace : 2 ≤ 2 + 6 * q + 5 := by omega
  simp [partOver, hm, nibblePhase_eq q (show 5 < 6 by decide), hplace]

/-- `K <- 0` stands after SET_RW, which opens a 4-bit poll. -/
theorem afterEvent_poll4_setRw {s : State} (bound : Byte) (hm : s.mode = .m4) :
    afterEvent .poll 1 .setRw bound s = { s with k := 0 } := by
  simp [afterEvent, capture, countSample, bringsHighNibble, assemblesSample, pollOpening, hm]

theorem afterEvent_poll4_clrRs {s : State} (bound : Byte) (hm : s.mode = .m4) :
    afterEvent .poll 0 .clrRs bound s = s := by
  simp [afterEvent, capture, countSample, bringsHighNibble, assemblesSample, pollOpening, hm]

theorem SampleAt.eventDone_other {p : Part} {i d : Nat} {s : State} (h : SampleAt p i) (hm : s.mode = .m4) (hd : d < 5)
    (h1 : d ≠ 1) (e : PortOp) (bound : Byte) : eventDone p (i + d) e bound s = perform e s :=
  h.afterEvent_other ((perform_mode _ s).trans hm) hd h1 e _

theorem SampleAt.eventDone_high {p : Part} {i : Nat} {s : State} (h : SampleAt p i) (hm : s.mode = .m4) (bound : Byte) :
    eventDone p (i + 1) .in4 bound s = { perform .in4 s with hi := lowNibble (rdata s) } := by
  refine (h.afterEvent_high ((perform_mode _ s).trans hm) _).trans ?_
  rw [show boundAfter .in4 bound s = zext8 (lowNibble (rdata s)) from rfl, lowNibble_zext8]

theorem SampleAt.eventDone_last {p : Part} {i : Nat} {s : State} (h : SampleAt p i) (hm : s.mode = .m4) (bound : Byte) :
    eventDone p (i + 5) .clrCe bound s =
      { perform .clrCe s with
        sample := joinNibbles s.hi (lowNibble bound), k := if p = .poll then s.k + 1 else s.k } :=
  h.afterEvent_last ((perform_mode _ s).trans hm) _

theorem eventDone_poll4_setRw {s : State} (bound : Byte) (hm : s.mode = .m4) :
    eventDone .poll 1 .setRw bound s = { perform .setRw s with k := 0 } :=
  afterEvent_poll4_setRw _ ((perform_mode _ s).trans hm)

theorem eventDone_poll4_clrRs {s : State} (bound : Byte) (hm : s.mode = .m4) :
    eventDone .poll 0 .clrRs bound s = perform .clrRs s :=
  afterEvent_poll4_clrRs _ ((perform_mode _ s).trans hm)

end Sys2Proof.Machine

/-! # What a host offers

The instructions that a host's packets decode to (20_memory.md R65): the commands and the two pseudo-instructions, each with the
command that accepting it begins and its whole meaning. -/

namespace Sys2Proof.Machine

/-- The commands that have a word: a reserved one has the code 0x0 or 0x9 to 0xF (30_encoding.md R73). -/
def Op.named (op : Op) : Prop := ∀ c, op = .reserved c → c = 0 ∨ 9 ≤ c.toNat

/-- The whole meaning of a command. -/
def execOp (op : Op) (arg : Byte) (s : State) : Result :=
  match op with
  | .init => execInit arg s
  | .deinit => execDeinit arg s
  | .writeInstr => writeCommand false arg s
  | .writeData => writeCommand true arg s
  | .readInstr => readCommand false s
  | .readData => readCommand true s
  | .waitBusy => pollCommand s
  | .initCtrl => execInitCtrl arg s
  | .reserved _ => .next (raiseContractFault s)

/-- The instruction of a command's word. -/
def instrOfOp (op : Op) (arg : Byte) : Instr := decodeCommand (cmdWord op.code arg)

theorem opField_reserved {c : Nibble} (h : Op.named (.reserved c)) :
    c = 0x0 ∨ c = 0x9 ∨ c = 0xA ∨ c = 0xB ∨ c = 0xC ∨ c = 0xD ∨ c = 0xE ∨ c = 0xF := by
  replace h := h c rfl
  revert c
  decide

theorem accept_instrOfOp {op : Op} (h : op.named) (arg : Byte) (s : State) :
    accept (instrOfOp op arg) s = some (beginCommand op arg s) := by
  unfold instrOfOp decodeCommand
  rw [opField_cmdWord, argField_cmdWord]
  cases op with
  | reserved c => rcases opField_reserved h with rfl | rfl | rfl | rfl | rfl | rfl | rfl | rfl <;> rfl
  | _ => rfl

theorem exec_instrOfOp {op : Op} (h : op.named) (arg : Byte) (s : State) :
    exec (instrOfOp op arg) s = execOp op arg s := by
  unfold instrOfOp decodeCommand
  rw [opField_cmdWord, argField_cmdWord]
  cases op with
  | reserved c => rcases opField_reserved h with rfl | rfl | rfl | rfl | rfl | rfl | rfl | rfl <;> rfl
  | _ => rfl

/-- The command that a code names (R72, R73). -/
def opOfCode (code : Nibble) : Op :=
  match code.toNat with
  | 1 => .init
  | 2 => .deinit
  | 3 => .writeInstr
  | 4 => .writeData
  | 5 => .readInstr
  | 6 => .readData
  | 7 => .waitBusy
  | 8 => .initCtrl
  | _ => .reserved code

theorem opOfCode_code (code : Nibble) : (opOfCode code).code = code := by
  revert code
  decide

theorem opOfCode_named (code : Nibble) : (opOfCode code).named := by
  unfold Op.named
  revert code
  decide

/-- Every word is a command's (R90). -/
theorem decodeCommand_named (w : CmdWord) : ∃ op, Op.named op ∧ ∃ arg, decodeCommand w = instrOfOp op arg := by
  refine ⟨opOfCode (opField w), opOfCode_named _, argField w, ?_⟩
  rw [instrOfOp, opOfCode_code, cmdWord_fields]

/-- The write command that a pseudo-instruction begins (R88). -/
def writeOp (rs : Bool) : Op := if rs then .writeData else .writeInstr

/-- cwri and cwrd (R88). -/
def pseudoInstr (rs : Bool) (v : Byte) : Instr := if rs then .cwrd v else .cwri v

theorem execOp_writeOp (rs : Bool) (v : Byte) (s : State) : execOp (writeOp rs) v s = writeCommand rs v s := by
  cases rs <;> rfl

theorem exec_pseudoInstr (rs : Bool) (v : Byte) (s : State) : exec (pseudoInstr rs v) s = checkedCommand rs v s := by
  cases rs <;> rfl

theorem accept_pseudoInstr (rs : Bool) (v : Byte) (s : State) :
    accept (pseudoInstr rs v) s =
      some (beginCommand (writeOp rs) v { s with queue := .command waitBusyWord :: s.queue }) := by
  cases rs <;> rfl

/-- The instructions a host can offer (20_memory.md R65). -/
inductive FromHost : Instr → Prop where
  | command {op : Op} (h : op.named) (arg : Byte) : FromHost (instrOfOp op arg)
  | pseudo (rs : Bool) (v : Byte) : FromHost (pseudoInstr rs v)

theorem decodeCommand_fromHost (w : CmdWord) : FromHost (decodeCommand w) := by
  obtain ⟨op, hop, arg, hw⟩ := decodeCommand_named w
  exact hw ▸ .command hop arg

theorem decodePair_fromHost {first second : CmdWord} {i : Instr} (h : decodePair first second = .ok i) : FromHost i := by
  unfold decodePair at h
  split at h
  · split at h
    · cases h
      exact .pseudo false _
    · cases h
      exact .pseudo true _
    · cases h
  · cases h

/-- A packet from the host decodes to such an instruction. -/
theorem decode_fromHost {p : Packet} (h : fromHost p = true) : ∃ i, decode p = .ok i ∧ FromHost i := by
  cases p with
  | command w => exact ⟨_, rfl, decodeCommand_fromHost w⟩
  | commandPair first second =>
    cases hd : decodePair first second with
    | ok i => exact ⟨i, hd, decodePair_fromHost hd⟩
    | error why => simp [fromHost, hd] at h
  | _ => cases h

/-- Accepting such an instruction begins a command, with `waitbusy` put back into the queue or not. -/
theorem FromHost.accepted {i : Instr} (h : FromHost i) (s : State) :
    ∃ op arg queue, accept i s = some (beginCommand op arg { s with queue := queue }) ∧
      (queue = s.queue ∨ queue = .command waitBusyWord :: s.queue) := by
  cases h with
  | command h arg => exact ⟨_, arg, s.queue, accept_instrOfOp h arg s, .inl rfl⟩
  | pseudo rs v => exact ⟨_, v, _, accept_pseudoInstr rs v s, .inr rfl⟩

end Sys2Proof.Machine

/-! # The invariant

`BlockInv` holds at reset, every step answers a next state from it, and that state meets it (10_state.md R28, R36; 42_write.md
R153; 40_port.md R118). At IDLE it is `AtRest`; inside a command it is the place the command stands at, for which the events of
each part are followed on the lines. -/

namespace Sys2Proof.Machine

/-! ## The block at rest -/

/-- The invariant at IDLE (R36). -/
structure AtRest (s : State) : Prop where
  valid : s.cfg.valid = true
  count : s.k ≤ s.cfg.busyRetryMax
  host : ∀ p ∈ s.queue, fromHost p = true
  is : s.is = .idle
  lines : idleLines s.mode s.lines

theorem blockInv_idle {s : State} (hs : s.seq = .idle) : BlockInv s ↔ AtRest s := by
  simp only [BlockInv, hs]
  exact ⟨fun ⟨hv, hk, hq, hi, hl⟩ => ⟨hv, hk, hq, hi, hl⟩, fun h => ⟨h.valid, h.count, h.host, h.is, h.lines⟩⟩

theorem blockInv_running {op : Op} {arg : Byte} {j i : Nat} {bound : Byte} {s : State} (hs : s.seq = .run op arg j i bound) :
    BlockInv s ↔
      s.cfg.valid = true ∧ s.k ≤ s.cfg.busyRetryMax ∧ (∀ p ∈ s.queue, fromHost p = true) ∧ runningWell op arg j i s := by
  simp only [BlockInv, hs]

/-- A response waits only when the block is at rest. -/
theorem BlockInv.atRest_of_response {s : State} (h : BlockInv s) (hv : s.rspValid = true) : s.seq = .idle ∧ AtRest s := by
  cases hs : s.seq with
  | idle => exact ⟨rfl, (blockInv_idle hs).1 h⟩
  | run op arg j i bound =>
    have hrun := (h.running hs).1
    rw [hv] at hrun
    cases hrun

/-- Settles O49: at reset every line floats. -/
theorem resetMeetsTheInvariant : Obligations.ResetMeetsTheInvariant := by
  refine (blockInv_idle (s := State.reset) rfl).2 ⟨rfl, Nat.zero_le _, ?_, rfl, rfl⟩
  simp [State.reset]

theorem powerOnReset_atRest {s : State} (hv : s.cfg.valid = true) (hq : ∀ p ∈ s.queue, fromHost p = true) :
    AtRest (powerOnReset s) :=
  ⟨hv, Nat.zero_le _, hq, rfl, rfl⟩

/-! ## Idle lines -/

/-- In a session the idle lines are read off the bound width's fields. -/
theorem idleLines_m8 {l : Lines} (h : idleLines .m8 l) {rs : Bool} {d : Latch} (hd : latchFits .m8 d) :
    idleLines .m8 { l with rs := rsLevel rs, rw := .high, ce := .low, dir8 := .input, dout := d } := by
  obtain ⟨-, -, -, hdir4, -, -⟩ := h
  refine ⟨rfl, rfl, rfl, hdir4, ?_, hd⟩
  cases rs
  · exact .inl rfl
  · exact .inr rfl

theorem idleLines_m4 {l : Lines} (h : idleLines .m4 l) {rs : Bool} {d : Latch} (hd : latchFits .m4 d) :
    idleLines .m4 { l with rs := rsLevel rs, rw := .high, ce := .low, dir4 := .input, dout := d } := by
  obtain ⟨-, -, -, hdir8, -, -⟩ := h
  refine ⟨rfl, rfl, rfl, hdir8, ?_, hd⟩
  cases rs
  · exact .inl rfl
  · exact .inr rfl

/-- Reads and polls leave the direction and the latch. -/
theorem idleLines_read {m : Mode} {l : Lines} (hm : m ≠ .undef) (h : idleLines m l) (rs : Bool) :
    idleLines m { l with rs := rsLevel rs, rw := .high, ce := .low } := by
  have hrs : rsLevel rs = .low ∨ rsLevel rs = .high := by cases rs <;> simp [rsLevel]
  cases m with
  | undef => exact absurd rfl hm
  | m4 | m8 =>
    obtain ⟨-, -, hin, hother, -, hdout⟩ := h
    exact ⟨rfl, rfl, hin, hother, hrs, hdout⟩

theorem idleLines_readable {s : State} (hm : s.mode ≠ .undef) (h : idleLines s.mode s.lines) : busReadable s := by
  cases hmode : s.mode with
  | undef => exact absurd hmode hm
  | m4 =>
    rw [hmode] at h
    exact .inr ⟨hmode, h.2.2.1⟩
  | m8 =>
    rw [hmode] at h
    exact .inl ⟨hmode, h.2.2.1⟩

/-! ## A list of events, from idle lines -/

/-- Whether an event is a violation depends on MODE and the lines (40_port.md R118). -/
theorem violation_congr {s t : State} (op : PortOp) (hm : s.mode = t.mode) (hl : s.lines = t.lines) :
    violation op s = violation op t := by
  cases op <;> simp [violation, needMode, hm, hl]

theorem emitAll_lines {ops : List PortOp} {s t : State} (h : emitAll ops s = .next t) : t.lines = linesAfter ops s.lines := by
  induction ops generalizing s with
  | nil =>
    cases h
    rfl
  | cons op rest ih =>
    obtain ⟨u, hu, h⟩ := andThen_eq_next h
    obtain ⟨-, rfl⟩ := emit_eq_next hu
    simpa [linesAfter] using ih h

/-- When a whole list runs, each of its events is legal on the lines the events before it make. -/
theorem violation_of_emitAll {ops : List PortOp} {u t s : State} {i : Nat} {e : PortOp} (h : emitAll ops u = .next t)
    (he : ops[i]? = some e) (hm : s.mode = u.mode) (hl : s.lines = linesAfter (ops.take i) u.lines) : violation e s = none := by
  induction ops generalizing u i with
  | nil => cases he
  | cons op rest ih =>
    obtain ⟨v, hv, h⟩ := andThen_eq_next h
    obtain ⟨hlegal, rfl⟩ := emit_eq_next hv
    cases i with
    | zero =>
      cases he
      rw [violation_congr _ hm hl]
      exact hlegal
    | succ i => exact ih h he (by simpa using hm) (by simpa [linesAfter] using hl)

theorem emitAll_r8 {s : State} (rs : Bool) (hm : s.mode = .m8) (hin : s.lines.dir8 = .input) :
    ∃ t, emitAll (r8 rs) s = .next t := by
  cases rs <;> simp [r8, emitAll, emit, violation, perform, drawAnswer, performLines, regSelect, hm, hin]

theorem emitAll_r4 {s : State} (rs : Bool) (hm : s.mode = .m4) (hin : s.lines.dir4 = .input) :
    ∃ t, emitAll (r4 rs) s = .next t := by
  cases rs <;> simp [r4, emitAll, emit, violation, perform, drawAnswer, performLines, regSelect, hm, hin]

theorem linesAfter_r8 (rs : Bool) (l : Lines) :
    linesAfter (r8 rs) l = { l with rs := rsLevel rs, rw := .high, ce := .low } := by
  cases rs <;> rfl

theorem linesAfter_r4 (rs : Bool) (l : Lines) :
    linesAfter (r4 rs) l = { l with rs := rsLevel rs, rw := .high, ce := .low } := by
  cases rs <;> rfl

/-! ## The parts of a command in a session -/

/-- The part is the list `events`. -/
def Lists (p : Part) (events : List PortOp) : Prop := p = .fixed events ∨ p = .read events

/-- The parts that a command of the operation set has in a mode. -/
inductive SessionPart : Mode → Part → Prop where
  | write8 (rs : Bool) (v : Byte) : SessionPart .m8 (.fixed (w8 rs v))
  | write4 (rs : Bool) (v : Byte) : SessionPart .m4 (.fixed (w4 rs v))
  | nibble (rs : Bool) (n : Nibble) : SessionPart .m4 (.fixed (w4n rs n))
  | delay {m : Mode} (hm : m ≠ .undef) (us : Micros) : SessionPart m (.fixed [.delay us])
  | read8 (rs : Bool) : SessionPart .m8 (.read (r8 rs))
  | read4 (rs : Bool) : SessionPart .m4 (.read (r4 rs))
  | poll {m : Mode} (hm : m ≠ .undef) : SessionPart m .poll

theorem sessionPart_write {m : Mode} (hm : m ≠ .undef) (rs : Bool) (v : Byte) :
    SessionPart m (.fixed (writeEvents m rs v)) := by
  cases m with
  | undef => exact absurd rfl hm
  | m4 => exact .write4 rs v
  | m8 => exact .write8 rs v

theorem sessionPart_read {m : Mode} (hm : m ≠ .undef) (rs : Bool) : SessionPart m (.read (readEvents m rs)) := by
  cases m with
  | undef => exact absurd rfl hm
  | m4 => exact .read4 rs
  | m8 => exact .read8 rs

/-- The list of such a part is not empty; from idle lines it runs, and the lines are idle after it. -/
theorem SessionPart.runs {m : Mode} {p : Part} {events : List PortOp} {u : State} (hp : SessionPart m p)
    (hlist : Lists p events) (hm : u.mode = m) (hl : idleLines m u.lines) :
    0 < events.length ∧ ∃ t, emitAll events u = .next t ∧ idleLines m t.lines := by
  cases hp with
  | write8 rs v =>
    obtain ⟨⟨⟩⟩ | ⟨⟨⟩⟩ := hlist
    exact ⟨by simp, _, emitAll_w8 rs v hm, idleLines_m8 hl trivial⟩
  | write4 rs v =>
    obtain ⟨⟨⟩⟩ | ⟨⟨⟩⟩ := hlist
    exact ⟨by simp, _, emitAll_w4 rs v hm, idleLines_m4 hl trivial⟩
  | nibble rs n =>
    obtain ⟨⟨⟩⟩ | ⟨⟨⟩⟩ := hlist
    exact ⟨by simp, _, emitAll_w4n rs n hm, idleLines_m4 hl trivial⟩
  | delay hsession us =>
    obtain ⟨⟨⟩⟩ | ⟨⟨⟩⟩ := hlist
    have hrun : emitAll [.delay us] u = .next { u with trace := u.trace ++ [ev (.delay us)] } := by
      rw [emitAll_cons, emit_delay us (hm ▸ hsession)]
      rfl
    exact ⟨by simp, _, hrun, hl⟩
  | read8 rs =>
    obtain ⟨⟨⟩⟩ | ⟨⟨⟩⟩ := hlist
    obtain ⟨t, ht⟩ := emitAll_r8 rs hm hl.2.2.1
    refine ⟨by simp [r8], t, ht, ?_⟩
    rw [emitAll_lines ht, linesAfter_r8]
    exact idleLines_read (m := .m8) nofun hl rs
  | read4 rs =>
    obtain ⟨⟨⟩⟩ | ⟨⟨⟩⟩ := hlist
    obtain ⟨t, ht⟩ := emitAll_r4 rs hm hl.2.2.1
    refine ⟨by simp [r4], t, ht, ?_⟩
    rw [emitAll_lines ht, linesAfter_r4]
    exact idleLines_read (m := .m4) nofun hl rs
  | poll => obtain ⟨⟨⟩⟩ | ⟨⟨⟩⟩ := hlist

/-! ## The places of a part -/

/-- `s` can stand at place i of part `p`: the lines are what the events before it make of idle lines. -/
def PlacedAt (p : Part) (i : Nat) (s : State) : Prop :=
  positionHeld p i s ∧ ∃ l, idleLines s.mode l ∧ s.lines = linesAfter (emittedSoFar p s.mode i) l

/-- The event `e` at place i of `p` is legal, and done it leaves K in its range and the lines idle or of the next place. -/
structure GoesOn (p : Part) (i : Nat) (e : PortOp) (s : State) : Prop where
  next : nextEvent p i s = some e
  legal : violation e s = none
  count (bound : Byte) : (eventDone p i e bound s).k ≤ s.cfg.busyRetryMax
  ended (bound : Byte) : partOver p i e (eventDone p i e bound s) = true → idleLines s.mode (performLines e s.lines)
  place (bound : Byte) : partOver p i e (eventDone p i e bound s) = false → PlacedAt p (i + 1) (eventDone p i e bound s)

theorem Lists.k_eventDone {p : Part} {events : List PortOp} (hlist : Lists p events) (i : Nat) (e : PortOp) (bound : Byte)
    (s : State) : (eventDone p i e bound s).k = s.k := by
  obtain rfl | rfl := hlist
  · simp [eventDone]
  · rw [eventDone, afterEvent_read]
    split_ifs <;> simp

theorem placedAt_lists {p : Part} {events : List PortOp} (hlist : Lists p events) (i : Nat) (s : State) :
    PlacedAt p i s ↔ i < events.length ∧ ∃ l, idleLines s.mode l ∧ s.lines = linesAfter (events.take i) l := by
  obtain rfl | rfl := hlist <;> rfl

theorem linesAfter_snoc (ops : List PortOp) (e : PortOp) (l : Lines) :
    linesAfter (ops ++ [e]) l = performLines e (linesAfter ops l) := linesAfter_append ops [e] l

theorem SessionPart.goesOn_list {p : Part} {events : List PortOp} {i : Nat} {s : State} (hp : SessionPart s.mode p)
    (hlist : Lists p events) (h : PlacedAt p i s) (hk : s.k ≤ s.cfg.busyRetryMax) : ∃ e, GoesOn p i e s := by
  obtain ⟨hi, l, hidle, hlines⟩ := (placedAt_lists hlist i s).1 h
  obtain ⟨-, t, hrun, hend⟩ := hp.runs (u := { s with lines := l }) hlist rfl hidle
  have he : events[i]? = some events[i] := List.getElem?_eq_getElem hi
  have hlegal := violation_of_emitAll (s := s) hrun he rfl hlines
  have hdone : performLines events[i] s.lines = linesAfter (events.take (i + 1)) l := by
    rw [List.take_add_one, he, Option.toList_some, linesAfter_snoc, ← hlines]
  have hmode (bound : Byte) : (eventDone p i events[i] bound s).mode = s.mode := (eventDone_kept hlegal).mode
  refine ⟨events[i], ?_, hlegal, fun bound => ?_, fun bound hover => ?_, fun bound hover => ?_⟩
  · obtain rfl | rfl := hlist <;> exact he
  · rw [hlist.k_eventDone]
    exact hk
  · have hlast : i + 1 = events.length := by
      obtain rfl | rfl := hlist <;> exact of_decide_eq_true hover
    rw [hdone, hlast, List.take_length]
    rwa [emitAll_lines hrun] at hend
  · have hmore : i + 1 ≠ events.length := by
      obtain rfl | rfl := hlist <;> exact of_decide_eq_false hover
    refine (placedAt_lists hlist (i + 1) _).2 ⟨by omega, l, ?_, ?_⟩
    · rwa [hmode]
    · rw [eventDone_lines, hdone]

/-! ## The places of a poll -/

/-- An event that does not end the poll leads to its next place. -/
theorem goesOn_inside {i : Nat} {e : PortOp} {s : State} (hnext : nextEvent .poll i s = some e) (hlegal : violation e s = none)
    (hmore : ∀ bound, partOver .poll i e (eventDone .poll i e bound s) = false)
    (hcount : ∀ bound, (eventDone .poll i e bound s).k ≤ s.cfg.busyRetryMax)
    (hheld : ∀ bound, positionHeld .poll (i + 1) (eventDone .poll i e bound s))
    (hlines : ∃ l, idleLines s.mode l ∧ performLines e s.lines = linesAfter (emittedSoFar .poll s.mode (i + 1)) l) :
    GoesOn .poll i e s := by
  refine ⟨hnext, hlegal, hcount, fun bound hover => ?_, fun bound _ => ⟨hheld bound, ?_⟩⟩
  · rw [hmore bound] at hover
    cases hover
  · rw [(eventDone_kept hlegal).mode, eventDone_lines]
    exact hlines

theorem goesOn_inside8 {i : Nat} {e : PortOp} {s : State} (hm : s.mode = .m8) (he : pollEvent8 i s = e) (hce : e ≠ .clrCe)
    (hlegal : violation e s = none) (k : Nat) (hk : ∀ bound, (eventDone .poll i e bound s).k = k)
    (hkN : k ≤ s.cfg.busyRetryMax) (hplace : 3 ≤ i + 1 → i + 1 = 3 + k)
    (hlines : ∃ l, idleLines .m8 l ∧ performLines e s.lines = linesAfter ([PortOp.clrRs, .setRw, .setCe].take (i + 1)) l) :
    GoesOn .poll i e s := by
  have hmode (bound : Byte) : (eventDone .poll i e bound s).mode = .m8 := (eventDone_kept hlegal).mode.trans hm
  refine goesOn_inside (he ▸ pollEvent_m8 i hm) hlegal (fun bound => ?_) (fun bound => (hk bound).trans_le hkN)
    (fun bound => ?_) ?_
  · rw [partOver_poll8 _ _ (hmode bound)]
    exact decide_eq_false hce
  · simpa only [positionHeld, hmode, hk] using hplace
  · rw [hm]
    exact hlines

/-- In M8 the three opening events, then samples with CE held while more are due, then CLR_CE. -/
theorem goesOn_poll8 {i : Nat} {s : State} (hm : s.mode = .m8) (h : PlacedAt .poll i s) (hN : 1 ≤ s.cfg.busyRetryMax)
    (hkN : s.k ≤ s.cfg.busyRetryMax) : ∃ e, GoesOn .poll i e s := by
  obtain ⟨hheld, l, hidle, hlines⟩ := h
  rw [hm] at hidle
  simp only [positionHeld, hm, emittedSoFar] at hheld hlines
  have hsession : s.mode ≠ .undef := by simp [hm]
  match i with
  | 0 =>
    refine ⟨.clrRs, goesOn_inside8 hm rfl nofun (if_neg hsession) s.k (fun bound => ?_) hkN (by omega) ⟨l, hidle, ?_⟩⟩
    · rw [eventDone_poll8_other 0 .clrRs bound hm (by decide) nofun nofun, perform_k]
    · rw [hlines]
      rfl
  | 1 =>
    refine ⟨.setRw, goesOn_inside8 hm rfl nofun (if_neg hsession) s.k (fun bound => ?_) hkN (by omega) ⟨l, hidle, ?_⟩⟩
    · rw [eventDone_poll8_other 1 .setRw bound hm (by decide) nofun nofun, perform_k]
    · rw [hlines]
      rfl
  | 2 =>
    refine ⟨.setCe, goesOn_inside8 hm rfl nofun (if_neg hsession) 0 (fun bound => ?_) (Nat.zero_le _) (by omega)
      ⟨l, hidle, ?_⟩⟩
    · rw [eventDone_poll8_setCe _ hm]
    · rw [hlines]
      rfl
  | q + 3 =>
    have hq := hheld (by omega)
    have htake (n : Nat) : [PortOp.clrRs, .setRw, .setCe].take (n + 3) = [.clrRs, .setRw, .setCe] :=
      List.take_of_length_le (by simp)
    rw [htake q] at hlines
    by_cases hend : (decide (s.k ≠ 0) && pollOver s) = true
    · have he : pollEvent8 (q + 3) s = .clrCe := if_pos hend
      have hlegal : violation .clrCe s = none := if_neg hsession
      refine ⟨.clrCe, he ▸ pollEvent_m8 _ hm, hlegal, fun bound => ?_, fun bound _ => ?_, fun bound hmore => ?_⟩
      · rw [eventDone_poll8_other (q + 3) .clrCe bound hm (by omega) nofun nofun, perform_k]
        exact hkN
      · rw [hm, hlines]
        exact idleLines_read (m := .m8) nofun hidle false
      · rw [partOver_poll8 _ _ ((eventDone_kept hlegal).mode.trans hm)] at hmore
        cases hmore
    · have he : pollEvent8 (q + 3) s = .in8 := if_neg hend
      have hinput : s.lines.dir8 = .input := by
        rw [hlines]
        exact hidle.2.2.1
      have hroom : s.k + 1 ≤ s.cfg.busyRetryMax := by
        by_contra hfull
        have hkeq : s.k = s.cfg.busyRetryMax := by omega
        have hk0 : s.cfg.busyRetryMax ≠ 0 := by omega
        simp [pollOver, hkeq, hk0] at hend
      refine ⟨.in8, goesOn_inside8 hm he nofun ?_ (s.k + 1) (fun bound => ?_) hroom (by omega) ⟨l, hidle, ?_⟩⟩
      · rw [violation_in8_m8 hm, if_pos hinput]
      · rw [Nat.add_comm q 3, eventDone_poll8_in8 _ _ hm]
        rfl
      · rw [hlines, htake (q + 1)]
        rfl

theorem emittedSoFar_sample (q : Nat) {d : Nat} (hd : d < 6) :
    emittedSoFar .poll .m4 (2 + 6 * q + d) =
      [PortOp.clrRs, .setRw] ++ [PortOp.setCe, .in4, .clrCe, .setCe, .in4, .clrCe].take d := by
  have hopen : [PortOp.clrRs, .setRw].take (2 + 6 * q + d) = [.clrRs, .setRw] := List.take_of_length_le (by simp; omega)
  simp only [emittedSoFar, hopen, nibblePhase_eq q hd]
  rw [if_pos (by omega)]

theorem positionHeld_sample {s : State} (q : Nat) {d : Nat} (hd : d < 6) (hm : s.mode = .m4) :
    positionHeld .poll (2 + 6 * q + d) s ↔ q = s.k ∧ s.k < s.cfg.busyRetryMax := by
  have hq : (2 + 6 * q + d - 2) / 6 = q := by omega
  have h2 : 2 ≤ 2 + 6 * q + d := by omega
  simp only [positionHeld, hm, hq, h2, true_implies]

/-- Every event of a sample is legal while the data lines are inputs. -/
theorem violation_nibbleEvent {s : State} (d : Nat) (hm : s.mode = .m4) (hin : s.lines.dir4 = .input) :
    violation (nibbleEvent d) s = none := by
  have hsession : s.mode ≠ .undef := by simp [hm]
  have hin4 : violation .in4 s = none := by rw [violation_in4_m4 hm, if_pos hin]
  match d with
  | 0 | 2 | 3 | _ + 5 => exact if_neg hsession
  | 1 | 4 => exact hin4

theorem SampleAt.k_inside {p : Part} {i d : Nat} {s : State} (h : SampleAt p i) (hm : s.mode = .m4) (hd : d < 5)
    (bound : Byte) : (eventDone p (i + d) (nibbleEvent d) bound s).k = s.k := by
  by_cases h1 : d = 1
  · subst h1
    rw [show nibbleEvent 1 = .in4 from rfl, h.eventDone_high hm]
    exact perform_k _ s
  · rw [h.eventDone_other hm hd h1, perform_k]

/-- In M4 the two opening events, then whole samples while more are due. -/
theorem goesOn_poll4 {i : Nat} {s : State} (hm : s.mode = .m4) (h : PlacedAt .poll i s) (hN : 1 ≤ s.cfg.busyRetryMax)
    (hkN : s.k ≤ s.cfg.busyRetryMax) : ∃ e, GoesOn .poll i e s := by
  obtain ⟨hheld, l, hidle, hlines⟩ := h
  rw [hm] at hidle hlines
  have hsession : s.mode ≠ .undef := by simp [hm]
  have hnext : nextEvent .poll i s = some (pollEvent4 i) := by simp [nextEvent, pollEvent, hm]
  match i with
  | 0 =>
    have hlegal : violation .clrRs s = none := if_neg hsession
    have hdone (bound : Byte) := eventDone_poll4_clrRs (s := s) bound hm
    refine ⟨.clrRs, goesOn_inside hnext hlegal (fun bound => ?_) (fun bound => ?_) (fun bound => ?_) ⟨l, hm ▸ hidle, ?_⟩⟩
    · simp [hdone, partOver, hm]
    · simpa [hdone] using hkN
    · simp [hdone, positionHeld, hm]
    · rw [hm, hlines]
      rfl
  | 1 =>
    have hlegal : violation .setRw s = none := if_neg hsession
    have hdone (bound : Byte) := eventDone_poll4_setRw (s := s) bound hm
    refine ⟨.setRw, goesOn_inside hnext hlegal (fun bound => ?_) (fun bound => ?_) (fun bound => ?_) ⟨l, hm ▸ hidle, ?_⟩⟩
    · simp [hdone, partOver, hm]
    · simp [hdone]
    · simpa [hdone, positionHeld, hm] using Nat.lt_of_lt_of_le Nat.zero_lt_one hN
    · rw [hm, hlines]
      rfl
  | n + 2 =>
    obtain ⟨q, d, hd, hplace⟩ : ∃ q d, d < 6 ∧ n + 2 = 2 + 6 * q + d :=
      ⟨n / 6, n % 6, Nat.mod_lt _ (by decide), by omega⟩
    rw [hplace] at hheld hlines ⊢
    rw [emittedSoFar_sample q hd] at hlines
    obtain ⟨hq, hroom⟩ := (positionHeld_sample q hd hm).1 hheld
    have hsample : SampleAt .poll (2 + 6 * q) := .inr ⟨rfl, q, rfl⟩
    have hin : s.lines.dir4 = .input := by
      rw [hlines]
      interval_cases d <;> exact hidle.2.2.1
    have hlegal := violation_nibbleEvent d hm hin
    have hmode (bound : Byte) := (eventDone_kept (p := .poll) (i := 2 + 6 * q + d) (bound := bound) hlegal).mode.trans hm
    have hcfg (bound : Byte) := (eventDone_kept (p := .poll) (i := 2 + 6 * q + d) (bound := bound) hlegal).cfg
    by_cases hlast : d = 5
    · subst hlast
      have hk (bound : Byte) : (eventDone .poll (2 + 6 * q + 5) (nibbleEvent 5) bound s).k = s.k + 1 := by
        rw [show nibbleEvent 5 = .clrCe from rfl, hsample.eventDone_last hm]
        rfl
      have hend : performLines (nibbleEvent 5) s.lines = { l with rs := .low, rw := .high, ce := .low } := by
        rw [hlines]
        rfl
      have hidle' := idleLines_read (m := .m4) nofun hidle false
      refine ⟨_, hsample.nextEvent hm hd, hlegal, fun bound => (hk bound).trans_le hroom, fun bound _ => ?_,
        fun bound hmore => ?_⟩
      · rw [hm, hend]
        exact hidle'
      · rw [partOver_poll4_last q _ (hmode bound), pollOver, Bool.or_eq_false_iff, decide_eq_false_iff_not, hk, hcfg] at hmore
        have hnextPlace : 2 + 6 * q + 5 + 1 = 2 + 6 * (q + 1) + 0 := by omega
        rw [hnextPlace]
        refine ⟨(positionHeld_sample (q + 1) (by decide) (hmode bound)).2 ?_,
          { l with rs := .low, rw := .high, ce := .low }, ?_, ?_⟩
        · rw [hk, hcfg]
          exact ⟨by omega, by omega⟩
        · rw [hmode]
          exact hidle'
        · rw [hmode, eventDone_lines, hend, emittedSoFar_sample (q + 1) (by decide)]
          rfl
    · have hd5 : d < 5 := by omega
      refine ⟨_, goesOn_inside (hsample.nextEvent hm hd) hlegal (fun bound => ?_) (fun bound => ?_) (fun bound => ?_)
        ⟨l, hm ▸ hidle, ?_⟩⟩
      · exact hsample.partOver_inside (hmode bound) hd5 _
      · rw [hsample.k_inside hm hd5]
        exact hkN
      · refine (positionHeld_sample q (d := d + 1) (by omega) (hmode bound)).2 ?_
        rw [hsample.k_inside hm hd5, hcfg]
        exact ⟨hq, hroom⟩
      · rw [hm, hlines, Nat.add_assoc, emittedSoFar_sample q (d := d + 1) (by omega)]
        interval_cases d <;> rfl

/-! ## From one place to the next -/

theorem SessionPart.mode_ne {m : Mode} {p : Part} (hp : SessionPart m p) : m ≠ .undef := by
  cases hp with
  | delay hm | poll hm => exact hm
  | _ => nofun

/-- Every place of such a part has a legal event, and it leads on. -/
theorem SessionPart.goesOn {p : Part} {i : Nat} {s : State} (hp : SessionPart s.mode p) (h : PlacedAt p i s)
    (hN : 1 ≤ s.cfg.busyRetryMax) (hk : s.k ≤ s.cfg.busyRetryMax) : ∃ e, GoesOn p i e s := by
  cases p with
  | fixed events => exact hp.goesOn_list (.inl rfl) h hk
  | read events => exact hp.goesOn_list (.inr rfl) h hk
  | poll =>
    cases hm : s.mode with
    | undef => exact absurd hm hp.mode_ne
    | m4 => exact goesOn_poll4 hm h hN hk
    | m8 => exact goesOn_poll8 hm h hN hk

/-- From idle lines a part begins. -/
theorem SessionPart.placedAt_zero {p : Part} {s : State} (hp : SessionPart s.mode p) (hl : idleLines s.mode s.lines) :
    PlacedAt p 0 s := by
  cases p with
  | fixed events => exact ⟨(hp.runs (.inl rfl) rfl hl).1, s.lines, hl, rfl⟩
  | read events => exact ⟨(hp.runs (.inr rfl) rfl hl).1, s.lines, hl, rfl⟩
  | poll =>
    refine ⟨?_, s.lines, hl, ?_⟩
    · cases hm : s.mode <;> simp [positionHeld, hm]
    · cases s.mode <;> rfl

/-! ## The part of a running command -/

/-- The commands of the operation set (41_session.md R130). -/
def Op.inOperationSet (op : Op) : Bool :=
  match op with
  | .writeInstr | .writeData | .readInstr | .readData | .waitBusy | .initCtrl => true
  | .init | .deinit | .reserved _ => false

/-- The steps of the initialization FSM that a mode has (45_init_fsm.md R215). -/
theorem initPart_session {s : State} (hm : s.mode ≠ .undef) (hi : s.is ≠ .idle) (hpre : s.is = .pre → s.mode = .m4) :
    SessionPart s.mode (initPart s) := by
  cases his : s.is with
  | idle => exact absurd his hi
  | pre =>
    have h4 := hpre his
    simp only [initPart, his, h4]
    exact .nibble false codePrelim
  | d1 | d2 =>
    simp only [initPart, his]
    exact .delay hm _
  | fs1 | fs2 | dc | clr | em =>
    simp only [initPart, his]
    exact sessionPart_write hm false _
  | dcP | clrP | emP =>
    simp only [initPart, his]
    exact .poll hm

theorem partOf_session {op : Op} {arg : Byte} {s : State} (hop : op.inOperationSet = true) (hm : s.mode ≠ .undef)
    (hi : op = .initCtrl → s.is ≠ .idle) (hpre : s.is = .pre → s.mode = .m4) : SessionPart s.mode (partOf op arg s) := by
  cases op with
  | init | deinit | reserved => cases hop
  | writeInstr | writeData => exact sessionPart_write hm _ _
  | readInstr | readData => exact sessionPart_read hm _
  | waitBusy => exact .poll hm
  | initCtrl => exact initPart_session hm (hi rfl) hpre

end Sys2Proof.Machine

/-! # Every step keeps the invariant -/

namespace Sys2Proof.Machine

/-! ## A running command -/

theorem executesWell_iff {op : Op} {arg : Byte} {j i : Nat} {s : State} :
    executesWell op arg j i s ↔
      (op = .initCtrl ↔ s.is ≠ .idle) ∧ (s.is = .pre → s.mode = .m4) ∧ PlacedAt (partOf op arg s) i s ∧ i ≤ j ∧
        (op ≠ .initCtrl → i = j) :=
  ⟨fun ⟨his, hpre, hheld, hij, hj, hl⟩ => ⟨his, hpre, ⟨hheld, hl⟩, hij, hj⟩,
    fun ⟨his, hpre, ⟨hheld, hl⟩, hij, hj⟩ => ⟨his, hpre, hheld, hij, hj, hl⟩⟩

theorem blockInv_of_executes {op : Op} {arg : Byte} {j i : Nat} (bound : Byte) {s : State} (hx : Executes op arg s)
    (hk : s.k ≤ s.cfg.busyRetryMax) (hq : ∀ p ∈ s.queue, fromHost p = true) (hw : executesWell op arg j i s) :
    BlockInv (running op arg j i bound s) := by
  have hpart : partOf op arg (running op arg j i bound s) = partOf op arg s := partOf_congr rfl rfl rfl
  have hrej : rejection op arg (running op arg j i bound s) = none := rejection_none_of_mode rfl hx.accepted
  refine (blockInv_running (s := running op arg j i bound s) rfl).2
    ⟨hx.valid, hk, hq, hx.noResponse, .inr ⟨?_, ?_⟩⟩
  · rw [turnedAway, hrej]
    rfl
  · rw [executesWell_iff, hpart]
    rw [executesWell_iff] at hw
    obtain ⟨his, hpre, hplace, hij, hj⟩ := hw
    refine ⟨his, hpre, ⟨?_, hplace.2⟩, hij, hj⟩
    cases hp : partOf op arg s <;> exact hp ▸ hplace.1

theorem executes_of_session {op : Op} {arg : Byte} {s : State} (hop : op.inOperationSet = true) (hv : s.cfg.valid = true)
    (hr : s.resetReq = false) (hrsp : s.rspValid = false) (hm : s.mode ≠ .undef) : Executes op arg s := by
  refine ⟨hv, hr, hrsp, executes_iff.2 ⟨?_, ?_, fun _ _ => hm⟩⟩
  · rintro c rfl
    cases hop
  · rintro rfl
    cases hop

/-- The next step of the initialization FSM begins on idle lines. -/
theorem enterInit_inv {arg : Byte} {j : Nat} {x : InitState} {s : State} (hx : Executes .initCtrl arg s)
    (hk : s.k ≤ s.cfg.busyRetryMax) (hq : ∀ p ∈ s.queue, fromHost p = true) (hl : idleLines s.mode s.lines)
    (hidle : x ≠ .idle) (hpre : x = .pre → s.mode = .m4) : BlockInv (enterInit x arg j s) := by
  have hm : s.mode ≠ .undef := (executes_iff.1 hx.accepted).2.2 nofun nofun
  have hx' : Executes .initCtrl arg { s with is := x } :=
    ⟨hx.valid, hx.noReset, hx.noResponse, rejection_none_of_mode (s := s) rfl hx.accepted⟩
  have hpart : SessionPart s.mode (partOf .initCtrl arg { s with is := x }) :=
    partOf_session (s := { s with is := x }) rfl hm (fun _ => hidle) hpre
  refine blockInv_of_executes 0x00 hx' hk hq (executesWell_iff.2 ⟨?_, hpre, ?_, Nat.zero_le j, fun h => absurd rfl h⟩)
  · exact iff_of_true rfl hidle
  · exact hpart.placedAt_zero hl

/-- What follows a part's last event leaves the block at rest or in the next step of the FSM. -/
theorem completePart_inv {op : Op} {arg : Byte} {s : State} (hop : op.inOperationSet = true) (hx : Executes op arg s)
    (hk : s.k ≤ s.cfg.busyRetryMax) (hq : ∀ p ∈ s.queue, fromHost p = true) (hi : op = .initCtrl ↔ s.is ≠ .idle)
    (hl : idleLines s.mode s.lines) (j : Nat) : BlockInv (completePart op arg j s) := by
  have responds (hne : op ≠ .initCtrl) (st : Status) (d : Byte) : BlockInv (respond st d s) :=
    (blockInv_idle (s := respond st d s) rfl).2 ⟨hx.valid, hk, hq, not_not.1 (mt hi.2 hne), hl⟩
  cases op with
  | init | deinit | reserved => cases hop
  | writeInstr | writeData | readInstr | readData | waitBusy => exact responds nofun _ _
  | initCtrl =>
    have finished : BlockInv (finishInitCtrl s) :=
      (blockInv_idle (s := finishInitCtrl s) rfl).2 ⟨hx.valid, hk, hq, rfl, hl⟩
    have entered (x : InitState) (hidle : x ≠ .idle) (hpre : x ≠ .pre) : BlockInv (enterInit x arg j s) :=
      enterInit_inv hx hk hq hl hidle fun h => absurd h hpre
    have polled (x : InitState) (hidle : x ≠ .idle) (hpre : x ≠ .pre) : BlockInv (afterTailPoll x arg j s) := by
      unfold afterTailPoll
      split
      · exact finished
      · exact entered x hidle hpre
    rw [completePart, initTransition]
    cases s.is with
    | idle | emP => exact finished
    | dcP | clrP => exact polled _ nofun nofun
    | pre | fs1 | d1 | fs2 | d2 | dc | clr | em => exact entered _ nofun nofun

/-- An event of a command of the operation set. -/
theorem session_step_inv {op : Op} {arg : Byte} {j i : Nat} {s : State} (hop : op.inOperationSet = true)
    (hx : Executes op arg s) (hk : s.k ≤ s.cfg.busyRetryMax) (hq : ∀ p ∈ s.queue, fromHost p = true)
    (hw : executesWell op arg j i s) (bound : Byte) : ∃ t, step (running op arg j i bound s) = .next t ∧ BlockInv t := by
  obtain ⟨his, hpre, hplace, hij, hj⟩ := executesWell_iff.1 hw
  have hm : s.mode ≠ .undef := by
    refine (executes_iff.1 hx.accepted).2.2 ?_ ?_ <;> rintro rfl <;> cases hop
  have hpart := partOf_session (arg := arg) hop hm (fun h => his.1 h) hpre
  obtain ⟨e, he⟩ := hpart.goesOn hplace ((config_valid_iff _).1 hx.valid) hk
  have hkept := eventDone_kept (p := partOf op arg s) (i := i) (bound := bound) he.legal
  have hx' := hx.of_kept hkept
  have hk' := he.count bound
  rw [← hkept.cfg] at hk'
  have hq' := hkept.queue ▸ hq
  refine ⟨_, step_running hx rfl he.next he.legal j bound, ?_⟩
  split
  · next hover =>
    refine completePart_inv hop hx' hk' hq' (by rwa [eventDone_is]) ?_ (j + 1)
    rw [hkept.mode, eventDone_lines]
    exact he.ended bound hover
  · next hover =>
    have hpart' : partOf op arg (eventDone (partOf op arg s) i e bound s) = partOf op arg s :=
      partOf_congr hkept.mode (eventDone_is ..) hkept.cfg
    refine blockInv_of_executes _ hx' hk' hq' (executesWell_iff.2 ⟨by rwa [eventDone_is], ?_, ?_, by omega, fun h => ?_⟩)
    · rwa [eventDone_is, hkept.mode]
    · rw [hpart']
      exact he.place bound (by simpa using hover)
    · rw [hj h]

/-- PORT_INIT and PORT_DEINIT are the one event of their commands. -/
theorem step_of_one_event {op : Op} {arg : Byte} {e : PortOp} {s : State} (hx : Executes op arg s)
    (hp : partOf op arg s = .fixed [e]) (hv : violation e s = none) (j : Nat) (bound : Byte) :
    step (running op arg j 0 bound s) = .next (completePart op arg (j + 1) (perform e s)) := by
  have hdone : eventDone (.fixed [e]) 0 e bound s = perform e s := afterEvent_fixed ..
  rw [step_running hx hp rfl hv, hdone]
  rfl

/-- PORT_INIT on a floating port leaves the idle lines of its width (40_port.md R101). -/
theorem idleLines_portInit {arg : Byte} {m : Mode} (h : busWidth arg = some m) :
    idleLines ((busWidth arg).getD .undef) (performLines (.portInit arg) Lines.floating) := by
  have hwidth : arg = 4 ∨ arg = 8 := by
    by_contra hne
    rw [not_or] at hne
    rw [busWidth_none hne.1 hne.2] at h
    cases h
  obtain rfl | rfl := hwidth <;> exact ⟨rfl, rfl, rfl, rfl, .inl rfl, trivial⟩

/-- INIT of a width outside a session, and DEINIT: the port is set up or floats. -/
theorem portCommand_step_inv {op : Op} {arg : Byte} {j i : Nat} {s : State} (hop : op = .init ∨ op = .deinit)
    (hx : Executes op arg s) (hk : s.k ≤ s.cfg.busyRetryMax) (hq : ∀ p ∈ s.queue, fromHost p = true)
    (hw : executesWell op arg j i s) (bound : Byte) : ∃ t, step (running op arg j i bound s) = .next t ∧ BlockInv t := by
  obtain ⟨his, -, ⟨hheld, l, hl, hlines⟩, -, -⟩ := executesWell_iff.1 hw
  have hi : i = 0 := by
    obtain rfl | rfl := hop
    · exact Nat.lt_one_iff.1 hheld
    · exact Nat.lt_one_iff.1 hheld
  subst hi
  have hidle : s.is = .idle := by
    obtain rfl | rfl := hop
    · exact not_not.1 (mt his.2 nofun)
    · exact not_not.1 (mt his.2 nofun)
  obtain rfl | rfl := hop
  · obtain ⟨hwidth, hm⟩ := (executes_iff.1 hx.accepted).2.1 rfl
    obtain ⟨m, hm'⟩ := Option.isSome_iff_exists.1 hwidth
    have hlegal := violation_portInit_of_width s hm'
    refine ⟨_, step_of_one_event hx rfl hlegal j bound, (blockInv_idle rfl).2 ⟨hx.valid, hk, hq, hidle, ?_⟩⟩
    rw [hm] at hl hlines
    have hfloating : s.lines = Lines.floating := hlines.trans hl
    change idleLines ((busWidth arg).getD .undef) (performLines (.portInit arg) s.lines)
    rw [hfloating]
    exact idleLines_portInit hm'
  · refine ⟨_, step_of_one_event hx rfl rfl j bound, ?_⟩
    exact (blockInv_idle rfl).2 ⟨hx.valid, forgetScratch_k_le _, hq, hidle, rfl⟩

/-- A running command: turned away it answers and the block is at rest, else it emits its next event. -/
theorem BlockInv.step_running {op : Op} {arg : Byte} {j i : Nat} {bound : Byte} {s : State} (h : BlockInv s)
    (hs : s.seq = .run op arg j i bound) (hr : s.resetReq = false) : ∃ t, step s = .next t ∧ BlockInv t := by
  obtain ⟨hv, hk, hq, hrsp, hrun⟩ := (blockInv_running hs).1 h
  cases hrej : rejection op arg s with
  | some t =>
    have haway : turnedAway op arg s = true := by simp [turnedAway, hrej]
    obtain ⟨-, -, -, hi, hl⟩ | ⟨hexec, -⟩ := hrun
    case inr => simp [haway] at hexec
    refine ⟨t, by rw [h.step_of_running hs hr, tick_rejected hrej], ?_⟩
    obtain rfl | ⟨-, rfl⟩ := rejection_eq_some hrej
    · exact (blockInv_idle rfl).2 ⟨hv, hk, hq, hi, hl⟩
    · exact (blockInv_idle rfl).2 ⟨hv, hk, hq, hi, hl⟩
  | none =>
    have hx : Executes op arg s := ⟨hv, hr, hrsp, hrej⟩
    have hw := h.executes hs hrej
    rw [← running_of_seq hs]
    cases op with
    | init => exact portCommand_step_inv (.inl rfl) hx hk hq hw bound
    | deinit => exact portCommand_step_inv (.inr rfl) hx hk hq hw bound
    | reserved c => exact absurd rfl ((executes_iff.1 hrej).1 c)
    | writeInstr | writeData | readInstr | readData | waitBusy | initCtrl =>
      exact session_step_inv rfl hx hk hq hw bound

/-! ## Accepting a command -/

/-- The state a command begins in: INIT_CTRL enters its first step (45_init_fsm.md R215). -/
def begun (op : Op) (s : State) : State := { s with is := if op = .initCtrl then firstInitState s.mode else s.is }

theorem beginCommand_eq (op : Op) (arg : Byte) (s : State) :
    beginCommand op arg s = running op arg 0 0 0x00 (begun op s) := by
  cases op <;> rfl

theorem firstInitState_ne_idle {m : Mode} (hm : m ≠ .undef) : firstInitState m ≠ .idle := by
  cases m with
  | undef => exact absurd rfl hm
  | m4 | m8 => nofun

theorem firstInitState_pre {m : Mode} (h : firstInitState m = .pre) : m = .m4 := by
  cases m with
  | m4 => rfl
  | undef | m8 => cases h

theorem rejection_running (op : Op) (arg : Byte) (j i : Nat) (bound : Byte) (s : State) :
    rejection op arg (running op arg j i bound s) = rejection op arg s := by
  cases op <;> rfl

theorem begun_of_ne {op : Op} (h : op ≠ .initCtrl) (s : State) : begun op s = s := by
  rw [begun, if_neg h]

/-- INIT_CTRL enters no step of its FSM before INIT. -/
theorem begun_of_rejection {op : Op} {arg : Byte} {s t : State} (hi : s.is = .idle) (h : rejection op arg s = some t) :
    begun op s = s := by
  by_cases hop : op = .initCtrl
  · subst hop
    have hm : s.mode = .undef := by
      by_contra hm
      simp [rejection, hm] at h
    have hfirst : firstInitState s.mode = s.is := by
      rw [hm, hi]
      rfl
    rw [begun, if_pos rfl, hfirst]
  · exact begun_of_ne hop s

/-- From rest a command begins in the invariant: it waits to be turned away, or stands at the first place of its part. -/
theorem beginCommand_inv {s : State} (h : AtRest s) (hr : s.resetReq = false) (hrsp : s.rspValid = false) (op : Op)
    (arg : Byte) : BlockInv (beginCommand op arg s) := by
  obtain ⟨hv, hk, hq, hi, hl⟩ := h
  rw [beginCommand_eq]
  by_cases hrej : rejection op arg s = none
  · have hx : Executes op arg (begun op s) := ⟨hv, hr, hrsp, rejection_none_of_mode (s := s) rfl hrej⟩
    have hinit (hop : op = .initCtrl) : s.mode ≠ .undef := by
      subst hop
      exact (executes_iff.1 hrej).2.2 nofun nofun
    have his : op = .initCtrl ↔ (begun op s).is ≠ .idle := by
      by_cases hop : op = .initCtrl
      · subst hop
        exact iff_of_true rfl (firstInitState_ne_idle (hinit rfl))
      · rw [begun_of_ne hop]
        exact iff_of_false hop (not_not.2 hi)
    have hpre (hp : (begun op s).is = .pre) : s.mode = .m4 := by
      by_cases hop : op = .initCtrl
      · subst hop
        exact firstInitState_pre hp
      · rw [begun_of_ne hop, hi] at hp
        cases hp
    refine blockInv_of_executes _ hx hk hq (executesWell_iff.2 ⟨his, hpre, ?_, Nat.le_refl 0, fun _ => rfl⟩)
    cases op with
    | init | deinit => exact ⟨Nat.zero_lt_one, s.lines, hl, rfl⟩
    | reserved c => exact absurd rfl ((executes_iff.1 hrej).1 c)
    | writeInstr | writeData | readInstr | readData | waitBusy | initCtrl =>
      have hm : s.mode ≠ .undef := (executes_iff.1 hrej).2.2 nofun nofun
      exact (partOf_session (s := begun _ s) rfl hm his.1 hpre).placedAt_zero hl
  · obtain ⟨t, ht⟩ := Option.ne_none_iff_exists'.1 hrej
    rw [begun_of_rejection hi ht]
    refine (blockInv_running (s := running op arg 0 0 0x00 s) rfl).2 ⟨hv, hk, hq, hrsp, .inl ⟨?_, rfl, rfl, hi, hl⟩⟩
    rw [turnedAway, rejection_running, ht, Option.isSome_some]

/-! ## A whole instruction at once -/

/-- A step that leaves the block idle and at rest. -/
def RestsAfter (r : Result) : Prop := ∃ t, r = .next t ∧ t.seq = .idle ∧ AtRest t

/-- A command of the operation set rests if it does so in either width: before INIT the stub answers. -/
theorem inSession_rests {s : State} {r : Result} (h : AtRest s) (h4 : s.mode = .m4 → RestsAfter (inSession s r))
    (h8 : s.mode = .m8 → RestsAfter (inSession s r)) : RestsAfter (inSession s r) := by
  cases hm : s.mode with
  | undef => exact ⟨_, inSession_undef hm, rfl, h.valid, h.count, h.host, h.is, h.lines⟩
  | m4 => exact h4 hm
  | m8 => exact h8 hm

theorem writeCommand_rests {s : State} (h : AtRest s) (rs : Bool) (v : Byte) : RestsAfter (writeCommand rs v s) := by
  refine inSession_rests h (fun hm => ⟨_, writeCommand_eq4 rs v hm, rfl, h.valid, h.count, h.host, h.is, ?_⟩)
    fun hm => ⟨_, writeCommand_eq8 rs v hm, rfl, h.valid, h.count, h.host, h.is, ?_⟩
  · have hl := h.lines
    simp only [respond_mode, respond_lines, hm] at hl ⊢
    exact idleLines_m4 hl trivial
  · have hl := h.lines
    simp only [respond_mode, respond_lines, hm] at hl ⊢
    exact idleLines_m8 hl trivial

theorem AtRest.input4 {s : State} (h : AtRest s) (hm : s.mode = .m4) : s.lines.dir4 = .input := by
  obtain ⟨h8, -⟩ | ⟨-, hin⟩ := idleLines_readable (by simp [hm]) h.lines
  · cases hm.symm.trans h8
  · exact hin

theorem AtRest.input8 {s : State} (h : AtRest s) (hm : s.mode = .m8) : s.lines.dir8 = .input := by
  obtain ⟨-, hin⟩ | ⟨h4, -⟩ := idleLines_readable (by simp [hm]) h.lines
  · exact hin
  · cases hm.symm.trans h4

theorem AtRest.retries {s : State} (h : AtRest s) : 1 ≤ s.cfg.busyRetryMax := (config_valid_iff _).1 h.valid

theorem readCommand_rests {s : State} (h : AtRest s) (rs : Bool) : RestsAfter (readCommand rs s) := by
  have hl (hm : s.mode ≠ .undef) := idleLines_read hm h.lines rs
  refine inSession_rests h
    (fun hm => ⟨_, readCommand_eq4 rs hm (h.input4 hm), rfl, h.valid, h.count, h.host, h.is, hl (by simp [hm])⟩)
    fun hm => ⟨_, readCommand_eq8 rs hm (h.input8 hm), rfl, h.valid, h.count, h.host, h.is, hl (by simp [hm])⟩

theorem pollCommand_rests {s : State} (h : AtRest s) : RestsAfter (pollCommand s) := by
  have hl (hm : s.mode ≠ .undef) := idleLines_read hm h.lines false
  have hN := h.retries
  refine inSession_rests h
    (fun hm => ⟨_, pollCommand_eq4 hN hm (h.input4 hm), rfl, h.valid, sampleCount_le _ _, h.host, h.is, hl (by simp [hm])⟩)
    fun hm => ⟨_, pollCommand_eq8 hN hm (h.input8 hm), rfl, h.valid, sampleCount_le _ _, h.host, h.is, hl (by simp [hm])⟩

theorem execInitCtrl_rests {s : State} (h : AtRest s) (arg : Byte) : RestsAfter (execInitCtrl arg s) := by
  have hN := h.retries
  refine inSession_rests h
    (fun hm => ⟨_, initCtrlInM4 arg s hm (h.input4 hm) hN, rfl, h.valid, ?_, h.host, rfl, ?_⟩)
    fun hm => ⟨_, initCtrlInM8 arg s hm (h.input8 hm) hN, rfl, h.valid, ?_, h.host, rfl, ?_⟩
  · dsimp only
    split_ifs <;> exact sampleCount_le _ _
  · have hl := h.lines
    simp only [hm] at hl ⊢
    exact idleLines_m4 (rs := false) hl trivial
  · dsimp only
    split_ifs <;> exact sampleCount_le _ _
  · have hl := h.lines
    simp only [hm] at hl ⊢
    exact idleLines_m8 (rs := false) hl trivial

theorem execInit_rests {s : State} (h : AtRest s) (arg : Byte) : RestsAfter (execInit arg s) := by
  by_cases hrej : busWidth arg = none ∨ s.mode ≠ .undef
  · exact ⟨_, exec_init_rejected hrej, rfl, h.valid, h.count, h.host, h.is, h.lines⟩
  · obtain ⟨hwidth, hm⟩ := not_or.1 hrej
    obtain ⟨m, hw⟩ := Option.ne_none_iff_exists'.1 hwidth
    have hl := h.lines
    rw [not_not.1 hm] at hl
    refine ⟨_, exec_init_of_width hw (not_not.1 hm), rfl, h.valid, h.count, h.host, h.is, ?_⟩
    have hport := idleLines_portInit hw
    rw [hw] at hport
    rw [respond_lines, respond_mode, show s.lines = Lines.floating from hl]
    exact hport

/-- From rest every command answers, and the block is at rest again. -/
theorem execOp_rests {s : State} (h : AtRest s) (op : Op) (arg : Byte) : RestsAfter (execOp op arg s) := by
  cases op with
  | init => exact execInit_rests h arg
  | deinit => exact ⟨_, exec_deinit_eq arg s, rfl, h.valid, forgetScratch_k_le _, h.host, h.is, rfl⟩
  | writeInstr | writeData => exact writeCommand_rests h _ arg
  | readInstr | readData => exact readCommand_rests h _
  | waitBusy => exact pollCommand_rests h
  | initCtrl => exact execInitCtrl_rests h arg
  | reserved c => exact ⟨_, rfl, rfl, h.valid, h.count, h.host, h.is, h.lines⟩

/-- So does every instruction a host can offer. -/
theorem FromHost.rests {i : Instr} {s : State} (hi : FromHost i) (h : AtRest s) : RestsAfter (exec i s) := by
  cases hi with
  | command hop arg => exact exec_instrOfOp hop arg s ▸ execOp_rests h _ arg
  | pseudo rs v =>
    obtain ⟨t, ht, hseq, hrest⟩ := writeCommand_rests h rs v
    rw [exec_pseudoInstr, checkedCommand, ht, andThen_next]
    split
    · exact pollCommand_rests ⟨hrest.valid, hrest.count, hrest.host, hrest.is, hrest.lines⟩
    · refine ⟨_, rfl, hseq, hrest.valid, hrest.count, fun p hp => ?_, hrest.is, hrest.lines⟩
      obtain rfl | hp := List.mem_cons.1 hp
      · rfl
      · exact hrest.host p hp

/-! ## Every step -/

theorem fetch_of_packet {p : Packet} {rest : List Packet} {i : Instr} {s : State} (hq : s.queue = p :: rest)
    (hd : decode p = .ok i) : fetch s = runOffered i { s with queue := rest } := by
  simp [fetch, hq, hd]

theorem runOffered_accepted {i : Instr} {s t : State} (hpace : s.pace = .event) (ha : accept i s = some t) :
    runOffered i s = .next t := by
  rw [runOffered_event hpace, ha]

/-- An instruction that a host offers is run at once, or accepted. -/
theorem FromHost.runOffered_inv {i : Instr} {s : State} (hi : FromHost i) (h : AtRest s) (hr : s.resetReq = false)
    (hrsp : s.rspValid = false) : ∃ t, runOffered i s = .next t ∧ BlockInv t := by
  cases hpace : s.pace with
  | command =>
    obtain ⟨t, ht, hseq, hafter⟩ := hi.rests h
    exact ⟨t, (runOffered_command hpace).trans ht, (blockInv_idle hseq).2 hafter⟩
  | event =>
    obtain ⟨op, arg, queue, haccept, hq⟩ := hi.accepted s
    have hhost : ∀ p ∈ queue, fromHost p = true := by
      obtain rfl | rfl := hq
      · exact h.host
      · exact List.forall_mem_cons.2 ⟨rfl, h.host⟩
    have hrest : AtRest { s with queue := queue } := ⟨h.valid, h.count, hhost, h.is, h.lines⟩
    exact ⟨_, runOffered_accepted hpace haccept, beginCommand_inv hrest hr hrsp op arg⟩

/-- At IDLE the block waits or takes the packet offered. -/
theorem AtRest.fetch_inv {s : State} (h : AtRest s) (hs : s.seq = .idle) (hr : s.resetReq = false)
    (hrsp : s.rspValid = false) : ∃ t, fetch s = .next t ∧ BlockInv t := by
  cases hqueue : s.queue with
  | nil => exact ⟨s, by rw [fetch, hqueue], (blockInv_idle hs).2 h⟩
  | cons p rest =>
    have hhost := h.host
    rw [hqueue, List.forall_mem_cons] at hhost
    obtain ⟨i, hd, hi⟩ := decode_fromHost hhost.1
    rw [fetch_of_packet hqueue hd]
    exact hi.runOffered_inv ⟨h.valid, h.count, hhost.2, h.is, h.lines⟩ hr hrsp

/-- From the invariant a step answers a next state, and that state meets it. -/
theorem BlockInv.step_inv {s : State} (h : BlockInv s) : ∃ t, step s = .next t ∧ BlockInv t := by
  have hv : s.cfg.valid = true := h.1
  cases hr : s.resetReq with
  | true => exact ⟨_, step_of_reset hv hr, (blockInv_idle rfl).2 (powerOnReset_atRest hv h.2.2.1)⟩
  | false =>
    cases hrsp : s.rspValid with
    | true =>
      obtain ⟨hs, hrest⟩ := h.atRest_of_response hrsp
      rw [step_of_response hv hr hrsp]
      cases s.rspReady with
      | true =>
        have htaken : AtRest (takeResponse s) := ⟨hv, hrest.count, hrest.host, hrest.is, hrest.lines⟩
        exact ⟨_, rfl, (blockInv_idle (s := takeResponse s) hs).2 htaken⟩
      | false => exact ⟨_, rfl, h⟩
    | false =>
      cases hs : s.seq with
      | run op arg j i bound => exact h.step_running hs hr
      | idle =>
        rw [step_of_idle hv hr hrsp hs]
        exact ((blockInv_idle hs).1 h).fetch_inv hs hr hrsp

/-- Settles O51: a step from the invariant has an answer. -/
theorem theBlockNeverViolatesThePortContract : Obligations.TheBlockNeverViolatesThePortContract := fun _ h =>
  h.step_inv.imp fun _ => And.left

/-- Settles O50: a step has one answer, and it meets the invariant. -/
theorem everyStepKeepsTheInvariant : Obligations.EveryStepKeepsTheInvariant := by
  intro s t h hstep
  obtain ⟨u, hu, hinv⟩ := h.step_inv
  obtain rfl : u = t := by simpa [hstep] using hu.symm
  exact hinv

end Sys2Proof.Machine

/-! # Event by event through a part

A part of a command, run one event a step from its first place, ends where its whole meaning ends: the list by `emitAll`, the
reads and the polls by their cycles (00_scope.md R7, R14; log 1). -/

namespace Sys2Proof.Machine

/-! ## Runs of steps that each emit one event -/

/-- Some steps, each of one event, lead from `s` to `t`. -/
def EventSteps (s t : State) : Prop :=
  ∃ n, Host.Core.run Sys2Proof.core n s = .next t ∧ t.trace.length = s.trace.length + n

theorem run_succ {n : Nat} {s t : State} (h : step s = .next t) :
    Host.Core.run Sys2Proof.core (n + 1) s = Host.Core.run Sys2Proof.core n t := by
  have hstep : Sys2Proof.core.step s = .next t := h
  simp only [Host.Core.run, hstep]

theorem run_add {m n : Nat} {s t : State} (h : Host.Core.run Sys2Proof.core m s = .next t) :
    Host.Core.run Sys2Proof.core (m + n) s = Host.Core.run Sys2Proof.core n t := by
  induction m generalizing s with
  | zero =>
    cases h
    rw [Nat.zero_add]
  | succ m ih =>
    rw [Nat.succ_add]
    cases hstep : step s with
    | next u =>
      rw [run_succ hstep] at h ⊢
      exact ih h
    | fault x | refused x =>
      have hstop : Sys2Proof.core.step s = _ := hstep
      simp only [Host.Core.run, hstop] at h
      cases h

theorem EventSteps.refl (s : State) : EventSteps s s := ⟨0, rfl, rfl⟩

theorem EventSteps.trans {s t u : State} (h : EventSteps s t) (h' : EventSteps t u) : EventSteps s u := by
  obtain ⟨m, hm, hmlen⟩ := h
  obtain ⟨n, hn, hnlen⟩ := h'
  exact ⟨m + n, (run_add hm).trans hn, by omega⟩

theorem eventSteps_of_step {s t : State} {x : Event} (h : step s = .next t) (ht : t.trace = s.trace ++ [x]) :
    EventSteps s t :=
  ⟨1, run_succ h, by simp [ht]⟩

/-! ## One event -/

/-- `s` is in the part `p` of a command that executes. -/
structure InPart (op : Op) (arg : Byte) (p : Part) (s : State) : Prop extends Executes op arg s where
  part : partOf op arg s = p

theorem InPart.of_kept {op : Op} {arg : Byte} {p : Part} {s t : State} (h : InPart op arg p s) (hk : Kept s t)
    (hi : t.is = s.is) : InPart op arg p t :=
  ⟨h.toExecutes.of_kept hk, (partOf_congr hk.mode hi hk.cfg).trans h.part⟩

/-- An event that is not the part's last one. -/
theorem InPart.event {op : Op} {arg : Byte} {p : Part} {i : Nat} {e : PortOp} {bound : Byte} {s t : State}
    (h : InPart op arg p s) (he : nextEvent p i s = some e) (hv : violation e s = none) (hdone : eventDone p i e bound s = t)
    (hmore : partOver p i e t = false) (j : Nat) :
    EventSteps (running op arg j i bound s) (running op arg (j + 1) (i + 1) (boundAfter e bound s) t) ∧ InPart op arg p t := by
  subst hdone
  have hstep := step_running h.toExecutes h.part he hv j bound
  rw [hmore, if_neg Bool.false_ne_true] at hstep
  exact ⟨eventSteps_of_step hstep (eventDone_trace ..), h.of_kept (eventDone_kept hv) (eventDone_is ..)⟩

/-- The part's last event. -/
theorem InPart.last {op : Op} {arg : Byte} {p : Part} {i : Nat} {e : PortOp} {bound : Byte} {s t : State}
    (h : InPart op arg p s) (he : nextEvent p i s = some e) (hv : violation e s = none) (hdone : eventDone p i e bound s = t)
    (hover : partOver p i e t = true) (j : Nat) :
    EventSteps (running op arg j i bound s) (completePart op arg (j + 1) t) := by
  subst hdone
  have hstep := step_running h.toExecutes h.part he hv j bound
  rw [hover, if_pos rfl] at hstep
  exact eventSteps_of_step hstep (by rw [completePart_trace, eventDone_trace]; rfl)

/-! ## Events with nothing between them -/

/-- At the places from i on the part has the events `ops`, none of them its last, and nothing stands between them. -/
def Plain (p : Part) (m : Mode) (i : Nat) (ops : List PortOp) : Prop :=
  ∀ d e, ops[d]? = some e → ∀ s : State, s.mode = m →
    nextEvent p (i + d) s = some e ∧ (∀ bound, eventDone p (i + d) e bound s = perform e s) ∧
      partOver p (i + d) e (perform e s) = false

theorem InPart.plain {op : Op} {arg : Byte} {p : Part} {ops : List PortOp} {i : Nat} {s t : State} (h : InPart op arg p s)
    (hplain : Plain p s.mode i ops) (hrun : emitAll ops s = .next t) (j : Nat) (bound : Byte) :
    ∃ j' bound', EventSteps (running op arg j i bound s) (running op arg j' (i + ops.length) bound' t) ∧
      InPart op arg p t := by
  induction ops generalizing i j bound s with
  | nil =>
    cases hrun
    exact ⟨j, bound, .refl _, h⟩
  | cons e rest ih =>
    obtain ⟨u, hu, hrun⟩ := andThen_eq_next hrun
    obtain ⟨hv, rfl⟩ := emit_eq_next hu
    obtain ⟨he, hdone, hmore⟩ := hplain 0 e rfl s rfl
    obtain ⟨hfirst, hin⟩ := h.event he hv (hdone bound) hmore j
    have hrest : Plain p (perform e s).mode (i + 1) rest := by
      intro d e' hd
      have := hplain (d + 1) e' hd
      rwa [Nat.add_comm d 1, ← Nat.add_assoc, ← perform_mode e s] at this
    obtain ⟨j', bound', hsteps, hin'⟩ := ih hin hrest hrun (j + 1) (boundAfter e bound s)
    refine ⟨j', bound', hfirst.trans ?_, hin'⟩
    rwa [List.length_cons, Nat.add_comm rest.length 1, ← Nat.add_assoc]

/-- A fixed list ends where `emitAll` ends. -/
theorem InPart.fixed {op : Op} {arg : Byte} {events : List PortOp} {s t : State} (h : InPart op arg (.fixed events) s)
    (hne : events ≠ []) (hrun : emitAll events s = .next t) (j : Nat) (bound : Byte) :
    ∃ j', EventSteps (running op arg j 0 bound s) (completePart op arg j' t) := by
  obtain ⟨xs, e, rfl⟩ := (List.eq_nil_or_concat events).resolve_left hne
  rw [List.concat_eq_append] at h hrun
  rw [emitAll_append] at hrun
  obtain ⟨u, hu, hrun⟩ := andThen_eq_next hrun
  obtain ⟨v, hv, hrun⟩ := andThen_eq_next hrun
  cases hrun
  obtain ⟨hlegal, rfl⟩ := emit_eq_next hv
  have hplain : Plain (.fixed (xs ++ [e])) s.mode 0 xs := by
    intro d e' hd u _
    have hlt := (List.getElem?_eq_some_iff.1 hd).1
    refine ⟨?_, fun bound => afterEvent_fixed .., decide_eq_false (by simp; omega)⟩
    rw [nextEvent, Nat.zero_add, List.getElem?_append_left hlt, hd]
  obtain ⟨j', bound', hsteps, hin⟩ := h.plain hplain hu j bound
  refine ⟨j' + 1, hsteps.trans (hin.last ?_ hlegal (afterEvent_fixed ..) ?_ j')⟩
  · simp [nextEvent]
  · simp [partOver]

end Sys2Proof.Machine

/-! # Event by event through a read and a poll -/

namespace Sys2Proof.Machine

/-! ## Reads -/

theorem plain_read {events xs ys : List PortOp} {m : Mode} (he : events = xs ++ ys) (hys : ys ≠ [])
    (hlen : xs.length ≤ 3) : Plain (.read events) m 0 xs := by
  intro d e hd s _
  have hlt := (List.getElem?_eq_some_iff.1 hd).1
  have hpos := List.length_pos_iff.2 hys
  have hmore : d + 1 ≠ events.length := by simp [he]; omega
  rw [Nat.zero_add]
  refine ⟨?_, fun bound => ?_, decide_eq_false hmore⟩
  · rw [nextEvent, he, List.getElem?_append_left hlt, hd]
  · rw [eventDone, afterEvent_read, if_neg (by omega), if_neg hmore]

theorem eventDone_read8_in8 {s : State} (rs : Bool) (bound : Byte) :
    eventDone (.read (r8 rs)) 3 .in8 bound s = perform .in8 s :=
  (afterEvent_read ..).trans (by simp [r8])

/-- `SAMPLE <- v` stands after the last event of R8. -/
theorem eventDone_read8_clrCe {s : State} (rs : Bool) (bound : Byte) (hm : s.mode = .m8) :
    eventDone (.read (r8 rs)) 4 .clrCe bound s = { perform .clrCe s with sample := bound } := by
  have hbyte : assembledByte (boundAfter .clrCe bound s) (perform .clrCe s) = bound := by
    simp [assembledByte, hm, boundAfter, answerOf]
  rw [eventDone, afterEvent_read, hbyte]
  simp [r8]

/-- An 8-bit read ends where R8 ends (R170). -/
theorem InPart.read8 {op : Op} {arg : Byte} {rs : Bool} {s t : State} (h : InPart op arg (.read (r8 rs)) s)
    (hm : s.mode = .m8) (hrun : readCycle8 rs s = .next t) (j : Nat) (bound : Byte) :
    ∃ j', EventSteps (running op arg j 0 bound s) (completePart op arg j' t) := by
  obtain ⟨u, hu, hrun⟩ := andThen_eq_next hrun
  obtain ⟨w, hw, hrun⟩ := andThen_eq_next hrun
  obtain ⟨v, hv, hw⟩ := andThen_eq_next hw
  obtain ⟨x, hx, hw⟩ := andThen_eq_next hw
  cases hrun
  cases hw
  obtain ⟨hin8, rfl⟩ := emit_eq_next hv
  obtain ⟨hclrCe, rfl⟩ := emit_eq_next hx
  have hmode : u.mode = .m8 := (emitAll_mode hu).trans hm
  obtain ⟨j', bound', hopen, hin⟩ := h.plain (plain_read (ys := [.in8, .clrCe]) rfl nofun (by simp)) hu j bound
  obtain ⟨hsample, hin'⟩ := hin.event (i := 3) rfl hin8 (eventDone_read8_in8 rs bound') rfl j'
  have hlast := hin'.last (i := 4) rfl hclrCe
    (eventDone_read8_clrCe rs (rdata u) ((perform_mode .in8 u).trans hmode)) rfl (j' + 1)
  exact ⟨j' + 1 + 1, hopen.trans (hsample.trans hlast)⟩

/-! ## A sample of a nibble pair -/

/-- An event of a sample that is not its last. -/
theorem InPart.sampleEvent {op : Op} {arg : Byte} {p : Part} {i d : Nat} {bound : Byte} {s t : State}
    (h : InPart op arg p s) (hs : SampleAt p i) (hm : s.mode = .m4) (hd : d < 5) (hv : violation (nibbleEvent d) s = none)
    (hdone : eventDone p (i + d) (nibbleEvent d) bound s = t) (j : Nat) :
    EventSteps (running op arg j (i + d) bound s)
        (running op arg (j + 1) (i + (d + 1)) (boundAfter (nibbleEvent d) bound s) t) ∧
      InPart op arg p t ∧ t.mode = .m4 := by
  subst hdone
  have hmode := (eventDone_kept (p := p) (i := i + d) (bound := bound) hv).mode.trans hm
  obtain ⟨hstep, hin⟩ := h.event (hs.nextEvent hm (by omega)) hv rfl (hs.partOver_inside hmode hd _) j
  exact ⟨hstep, hin, hmode⟩

theorem lowNibble_boundAfter_in4 (bound : Byte) (s : State) : lowNibble (boundAfter .in4 bound s) = lowNibble (rdata s) :=
  lowNibble_zext8 _

/-- All but the last event of a sample: the last one then leaves what the whole sample leaves, and counts it in a poll. -/
theorem InPart.sample {op : Op} {arg : Byte} {p : Part} {i : Nat} {s t : State} (h : InPart op arg p s) (hs : SampleAt p i)
    (hm : s.mode = .m4) (hrun : sampleNibbles s = .next t) (j : Nat) (bound : Byte) :
    ∃ j' bound' u, EventSteps (running op arg j i bound s) (running op arg j' (i + 5) bound' u) ∧ InPart op arg p u ∧
      u.mode = .m4 ∧ violation .clrCe u = none ∧
      eventDone p (i + 5) .clrCe bound' u = { t with k := if p = .poll then t.k + 1 else t.k } := by
  obtain ⟨a, ha, hrun⟩ := andThen_eq_next hrun
  obtain ⟨b, hb, hrun⟩ := andThen_eq_next hrun
  obtain ⟨c, hc, hb⟩ := andThen_eq_next hb
  obtain ⟨d, hd, hb⟩ := andThen_eq_next hb
  obtain ⟨e, he, hb⟩ := andThen_eq_next hb
  obtain ⟨f, hf, hrun⟩ := andThen_eq_next hrun
  obtain ⟨g, hg, hf⟩ := andThen_eq_next hf
  obtain ⟨x, hx, hf⟩ := andThen_eq_next hf
  cases hrun
  cases hf
  cases hb
  obtain ⟨v0, rfl⟩ := emit_eq_next ha
  obtain ⟨v1, rfl⟩ := emit_eq_next hc
  obtain ⟨v2, rfl⟩ := emit_eq_next hd
  obtain ⟨v3, rfl⟩ := emit_eq_next he
  obtain ⟨v4, rfl⟩ := emit_eq_next hg
  obtain ⟨v5, rfl⟩ := emit_eq_next hx
  obtain ⟨s0, in0, m0⟩ := h.sampleEvent hs hm (d := 0) (by decide) v0
    (hs.eventDone_other hm (by decide) (by decide) _ bound) j
  obtain ⟨s1, in1, m1⟩ := in0.sampleEvent hs m0 (d := 1) (by decide) v1 (hs.eventDone_high m0 _) (j + 1)
  obtain ⟨s2, in2, m2⟩ := in1.sampleEvent hs m1 (d := 2) (by decide) v2
    (hs.eventDone_other m1 (by decide) (by decide) _ _) (j + 1 + 1)
  obtain ⟨s3, in3, m3⟩ := in2.sampleEvent hs m2 (d := 3) (by decide) v3
    (hs.eventDone_other m2 (by decide) (by decide) _ _) _
  obtain ⟨s4, in4, m4⟩ := in3.sampleEvent hs m3 (d := 4) (by decide) v4
    (hs.eventDone_other m3 (by decide) (by decide) _ _) _
  refine ⟨_, _, _, s0.trans (s1.trans (s2.trans (s3.trans s4))), in4, m4, v5, ?_⟩
  rw [hs.eventDone_last m4, show nibbleEvent 4 = .in4 from rfl, lowNibble_boundAfter_in4]
  rfl

/-- A 4-bit read ends where R4 ends (R171). -/
theorem InPart.read4 {op : Op} {arg : Byte} {rs : Bool} {s t : State} (h : InPart op arg (.read (r4 rs)) s)
    (hm : s.mode = .m4) (hrun : readCycle4 rs s = .next t) (j : Nat) (bound : Byte) :
    ∃ j', EventSteps (running op arg j 0 bound s) (completePart op arg j' t) := by
  obtain ⟨u, hu, hrun⟩ := andThen_eq_next hrun
  have hmode : u.mode = .m4 := (emitAll_mode hu).trans hm
  have hs : SampleAt (.read (r4 rs)) 2 := .inl ⟨⟨rs, rfl⟩, rfl⟩
  obtain ⟨j1, b1, hopen, hin⟩ := h.plain
    (plain_read (ys := [.setCe, .in4, .clrCe, .setCe, .in4, .clrCe]) rfl nofun (by simp)) hu j bound
  obtain ⟨j2, b2, v, hsample, hin', hmode', hlegal, hdone⟩ := hin.sample hs hmode hrun j1 b1
  rw [if_neg nofun] at hdone
  exact ⟨j2 + 1, hopen.trans (hsample.trans (hin'.last (hs.nextEvent (d := 5) hmode' (by decide)) hlegal hdone rfl j2))⟩

/-! ## Polls -/

theorem pollEvent8_sample {s : State} (q : Nat) (h : s.k = 0 ∨ pollOver s = false) : pollEvent8 (3 + q) s = .in8 := by
  rw [Nat.add_comm]
  obtain h | h := h <;> simp [pollEvent8, h]

theorem pollEvent8_end {s : State} (q : Nat) (hk : s.k ≠ 0) (h : pollOver s = true) : pollEvent8 (3 + q) s = .clrCe := by
  rw [Nat.add_comm]
  simp [pollEvent8, h, hk]

/-- The samples of POLL8 and its CLR_CE (R190). -/
theorem InPart.pollLoop8 {op : Op} {arg : Byte} {left : Nat} {s t : State} (h : InPart op arg .poll s) (hm : s.mode = .m8)
    (hmore : s.k = 0 ∨ pollOver s = false) (hrun : pollLoop8 left s = .next t) (q j : Nat) (bound : Byte) :
    ∃ j', EventSteps (running op arg j (3 + q) bound s) (completePart op arg j' t) := by
  induction left generalizing s q j bound with
  | zero => cases hrun
  | succ left ih =>
    obtain ⟨u, hu, hrun⟩ := andThen_eq_next hrun
    obtain ⟨w, hw, hu⟩ := andThen_eq_next hu
    cases hu
    obtain ⟨hv, rfl⟩ := emit_eq_next hw
    have hm' : (sampled8 s).mode = .m8 := hm
    obtain ⟨hsample, hin⟩ := h.event (pollEvent8_sample q hmore ▸ pollEvent_m8 (3 + q) hm) hv
      (eventDone_poll8_in8 q bound hm) (partOver_poll8 _ _ hm') j
    change (if pollOver (sampled8 s) = true then emit .clrCe (sampled8 s) else Machine.pollLoop8 left (sampled8 s)) = _ at hrun
    split at hrun
    · next hover =>
      obtain ⟨hv', rfl⟩ := emit_eq_next hrun
      have hnext : nextEvent .poll (3 + (q + 1)) (sampled8 s) = some .clrCe := by
        rw [pollEvent_m8 _ hm', pollEvent8_end (q + 1) (Nat.succ_ne_zero _) hover]
      have hlast := hin.last hnext hv'
        (eventDone_poll8_other (3 + (q + 1)) .clrCe (boundAfter .in8 bound s) hm' (by omega) nofun nofun)
        (partOver_poll8 _ _ ((perform_mode _ _).trans hm')) (j + 1)
      exact ⟨_, hsample.trans hlast⟩
    · next hover =>
      obtain ⟨j', hrest⟩ := ih hin hm' (.inr (by simpa using hover)) hrun (q + 1) (j + 1) _
      exact ⟨j', hsample.trans hrest⟩

/-- CLR_RS and SET_RW open a poll in either width; in M8 nothing stands after them. -/
theorem plain_poll8 : Plain .poll .m8 0 [.clrRs, .setRw] := by
  intro d e hd s hm
  have hmode : (perform e s).mode = .m8 := (perform_mode e s).trans hm
  rw [Nat.zero_add, pollEvent_m8 d hm, partOver_poll8 _ _ hmode]
  match d with
  | 0 =>
    cases hd
    exact ⟨rfl, fun bound => eventDone_poll8_other 0 .clrRs bound hm (by decide) nofun nofun, rfl⟩
  | 1 =>
    cases hd
    exact ⟨rfl, fun bound => eventDone_poll8_other 1 .setRw bound hm (by decide) nofun nofun, rfl⟩

/-- A poll in M8 ends where POLL8 ends (R190). -/
theorem InPart.poll8 {op : Op} {arg : Byte} {s t : State} (h : InPart op arg .poll s) (hm : s.mode = .m8)
    (hrun : poll8 s = .next t) (j : Nat) (bound : Byte) :
    ∃ j', EventSteps (running op arg j 0 bound s) (completePart op arg j' t) := by
  obtain ⟨u, hu, hrun⟩ := andThen_eq_next hrun
  rw [show [PortOp.clrRs, .setRw, .setCe] = [.clrRs, .setRw] ++ [.setCe] from rfl, emitAll_append] at hu
  obtain ⟨v, hv, hu⟩ := andThen_eq_next hu
  obtain ⟨w, hw, hu⟩ := andThen_eq_next hu
  cases hu
  obtain ⟨hlegal, rfl⟩ := emit_eq_next hw
  have hmode : v.mode = .m8 := (emitAll_mode hv).trans hm
  obtain ⟨j1, b1, hopen, hin⟩ := h.plain (hm ▸ plain_poll8) hv j bound
  obtain ⟨hce, hin'⟩ := hin.event (i := 2) (e := .setCe) (by rw [pollEvent_m8 2 hmode]; rfl) hlegal
    (eventDone_poll8_setCe b1 hmode) (partOver_poll8 _ _ hmode) j1
  obtain ⟨j', hloop⟩ := hin'.pollLoop8 hmode (.inl rfl) hrun 0 (j1 + 1) _
  exact ⟨j', hopen.trans (hce.trans hloop)⟩

/-- The samples of POLL4 (R191). -/
theorem InPart.pollLoop4 {op : Op} {arg : Byte} {left : Nat} {s t : State} (h : InPart op arg .poll s) (hm : s.mode = .m4)
    (hrun : pollLoop4 left s = .next t) (q j : Nat) (bound : Byte) :
    ∃ j', EventSteps (running op arg j (2 + 6 * q) bound s) (completePart op arg j' t) := by
  induction left generalizing s q j bound with
  | zero => cases hrun
  | succ left ih =>
    obtain ⟨u, hu, hrun⟩ := andThen_eq_next hrun
    have hs : SampleAt .poll (2 + 6 * q) := .inr ⟨rfl, q, rfl⟩
    have hm' : ({ u with k := u.k + 1 } : State).mode = .m4 := (sampleNibbles_kept hu).mode.trans hm
    obtain ⟨j1, b1, v, hsample, hin, hmode, hlegal, hdone⟩ := h.sample hs hm hu j bound
    rw [if_pos rfl] at hdone
    have hnext : nextEvent .poll (2 + 6 * q + 5) v = some .clrCe := hs.nextEvent hmode (by decide)
    have hpart := partOver_poll4_last q .clrCe hm'
    dsimp only at hrun
    split at hrun
    · next hover =>
      cases hrun
      exact ⟨_, hsample.trans (hin.last hnext hlegal hdone (hpart.trans hover) j1)⟩
    · next hover =>
      obtain ⟨hlast, hin'⟩ := hin.event hnext hlegal hdone (hpart.trans (by simpa using hover)) j1
      obtain ⟨j', hrest⟩ := ih hin' hm' hrun (q + 1) (j1 + 1) (boundAfter .clrCe b1 v)
      exact ⟨j', hsample.trans (hlast.trans hrest)⟩

/-- A poll in M4 ends where POLL4 ends (R191). -/
theorem InPart.poll4 {op : Op} {arg : Byte} {s t : State} (h : InPart op arg .poll s) (hm : s.mode = .m4)
    (hrun : poll4 s = .next t) (j : Nat) (bound : Byte) :
    ∃ j', EventSteps (running op arg j 0 bound s) (completePart op arg j' t) := by
  obtain ⟨u, hu, hrun⟩ := andThen_eq_next hrun
  obtain ⟨v, hv, hu⟩ := andThen_eq_next hu
  obtain ⟨w, hw, hu⟩ := andThen_eq_next hu
  cases hu
  obtain ⟨hclrRs, rfl⟩ := emit_eq_next hv
  obtain ⟨hsetRw, rfl⟩ := emit_eq_next hw
  have hopening (i : Nat) (e : PortOp) (hi : i < 2) {x : State} (hx : x.mode = .m4) : partOver .poll i e x = false := by
    have hplace : ¬2 ≤ i := by omega
    simp [partOver, hx, hplace]
  have hm1 : (perform .clrRs s).mode = .m4 := hm
  obtain ⟨hfirst, hin⟩ := h.event (i := 0) (by simp [nextEvent, pollEvent, hm, pollEvent4]) hclrRs
    (eventDone_poll4_clrRs bound hm) (hopening 0 _ (by decide) hm1) j
  obtain ⟨hsecond, hin'⟩ := hin.event (i := 1) (by simp [nextEvent, pollEvent, hm, pollEvent4]) hsetRw
    (eventDone_poll4_setRw (boundAfter .clrRs bound s) hm1) (hopening 1 _ (by decide) hm1) (j + 1)
  obtain ⟨j', hloop⟩ := hin'.pollLoop4 hm1 hrun 0 (j + 1 + 1) _
  exact ⟨j', hfirst.trans (hsecond.trans hloop)⟩

/-! ## The cycles of the bound width -/

theorem InPart.pollCycle {op : Op} {arg : Byte} {s t : State} (h : InPart op arg .poll s) (hm : s.mode ≠ .undef)
    (hrun : pollCycle s = .next t) (j : Nat) (bound : Byte) :
    ∃ j', EventSteps (running op arg j 0 bound s) (completePart op arg j' t) := by
  unfold Machine.pollCycle at hrun
  cases hmode : s.mode with
  | undef => exact absurd hmode hm
  | m4 =>
    rw [hmode] at hrun
    exact h.poll4 hmode hrun j bound
  | m8 =>
    rw [hmode] at hrun
    exact h.poll8 hmode hrun j bound

theorem InPart.readCycle {op : Op} {arg : Byte} {rs : Bool} {s t : State} (h : InPart op arg (.read (readEvents s.mode rs)) s)
    (hm : s.mode ≠ .undef) (hrun : readCycle rs s = .next t) (j : Nat) (bound : Byte) :
    ∃ j', EventSteps (running op arg j 0 bound s) (completePart op arg j' t) := by
  unfold Machine.readCycle at hrun
  cases hmode : s.mode with
  | undef => exact absurd hmode hm
  | m4 =>
    rw [hmode] at hrun h
    exact h.read4 hmode hrun j bound
  | m8 =>
    rw [hmode] at hrun h
    exact h.read8 hmode hrun j bound

end Sys2Proof.Machine

/-! # Event by event through INIT_CTRL

The steps of the initialization FSM in their order (45_init_fsm.md R211 to R215): running each of them event by event, and then
the FSM's transition, ends where the sequence ends. -/

namespace Sys2Proof.Machine

/-! ## IS within a step of the FSM -/

theorem emitAll_is {ops : List PortOp} {s t : State} (h : emitAll ops s = .next t) : t.is = s.is := by
  induction ops generalizing s with
  | nil =>
    cases h
    rfl
  | cons op rest ih =>
    obtain ⟨u, hu, ht⟩ := andThen_eq_next h
    obtain ⟨-, rfl⟩ := emit_eq_next hu
    exact (ih ht).trans (perform_is ..)

theorem sampleNibbles_is {s t : State} (h : sampleNibbles s = .next t) : t.is = s.is := by
  obtain ⟨u, hu, h⟩ := andThen_eq_next h
  obtain ⟨v, hv, h⟩ := andThen_eq_next h
  obtain ⟨w, hw, h⟩ := andThen_eq_next h
  cases h
  obtain ⟨-, rfl⟩ := emit_eq_next hu
  exact (emitAll_is hw).trans ((emitAll_is hv).trans (perform_is ..))

theorem pollLoop8_is {left : Nat} {s t : State} (h : pollLoop8 left s = .next t) : t.is = s.is := by
  induction left generalizing s with
  | zero => cases h
  | succ left ih =>
    obtain ⟨u, hu, h⟩ := andThen_eq_next h
    have hsample : u.is = s.is := by
      obtain ⟨v, hv, hu⟩ := andThen_eq_next hu
      cases hu
      obtain ⟨-, rfl⟩ := emit_eq_next hv
      rfl
    split at h
    · obtain ⟨-, rfl⟩ := emit_eq_next h
      exact hsample
    · exact (ih h).trans hsample

theorem pollLoop4_is {left : Nat} {s t : State} (h : pollLoop4 left s = .next t) : t.is = s.is := by
  induction left generalizing s with
  | zero => cases h
  | succ left ih =>
    obtain ⟨u, hu, h⟩ := andThen_eq_next h
    have hsample := sampleNibbles_is hu
    dsimp only at h
    split at h
    · cases h
      exact hsample
    · exact (ih h).trans hsample

theorem pollCycle_is {s t : State} (h : pollCycle s = .next t) : t.is = s.is := by
  unfold pollCycle at h
  split at h
  · obtain ⟨u, hu, h⟩ := andThen_eq_next h
    exact (pollLoop8_is h).trans (emitAll_is (t := u) hu)
  · obtain ⟨u, hu, h⟩ := andThen_eq_next h
    exact (pollLoop4_is h).trans (emitAll_is (t := u) hu)

/-! ## One step of the FSM -/

/-- In the IS state x, running the step event by event ends where `cycle` ends. -/
def StepRuns (x : InitState) (cycle : State → Result) : Prop :=
  ∀ (arg : Byte) (j : Nat) (s t : State), Executes .initCtrl arg s → s.is = x → cycle s = .next t →
    Kept s t ∧ t.is = x ∧ ∃ j', EventSteps (running .initCtrl arg j 0 0x00 s) (initTransition arg j' t)

theorem stepRuns_fixed {x : InitState} (events : State → List PortOp)
    (hpart : ∀ s : State, s.is = x → initPart s = .fixed (events s)) (hne : ∀ s, events s ≠ []) :
    StepRuns x fun s => emitAll (events s) s := fun _ j s _ hx his hrun =>
  have hin : InPart .initCtrl _ (.fixed (events s)) s := ⟨hx, hpart s his⟩
  ⟨emitAll_kept hrun, (emitAll_is hrun).trans his, hin.fixed (hne s) hrun j 0x00⟩

theorem stepRuns_poll {x : InitState} (hpart : ∀ s : State, s.is = x → initPart s = .poll) : StepRuns x pollCycle :=
  fun _ j s _ hx his hrun =>
  have hin : InPart .initCtrl _ .poll s := ⟨hx, hpart s his⟩
  have hm : s.mode ≠ .undef := (executes_iff.1 hx.accepted).2.2 nofun nofun
  ⟨pollCycle_kept hrun, (pollCycle_is hrun).trans his, hin.pollCycle hm hrun j 0x00⟩

theorem writeEvents_ne_nil (m : Mode) (rs : Bool) (v : Byte) : writeEvents m rs v ≠ [] := by
  cases m <;> nofun

theorem stepRuns_write {x : InitState} (code : State → Byte)
    (hpart : ∀ s : State, s.is = x → initPart s = .fixed (writeEvents s.mode false (code s))) :
    StepRuns x fun s => writeCycle false (code s) s :=
  stepRuns_fixed _ hpart fun s => writeEvents_ne_nil s.mode false (code s)

theorem emitAll_singleton (e : PortOp) (s : State) : emitAll [e] s = emit e s := by
  rw [emitAll_cons]
  cases emit e s <;> rfl

theorem stepRuns_delay {x : InitState} (us : State → Micros)
    (hpart : ∀ s : State, s.is = x → initPart s = .fixed [.delay (us s)]) :
    StepRuns x fun s => emit (.delay (us s)) s := by
  have h := stepRuns_fixed (x := x) (fun s => [.delay (us s)]) hpart fun _ => List.cons_ne_nil _ _
  simpa only [emitAll_singleton] using h

/-! ## The rest of the sequence -/

/-- From the IS state x on, running event by event ends where `rest` ends. -/
def RunsFrom (x : InitState) (rest : State → Result) : Prop :=
  ∀ (arg : Byte) (j : Nat) (s t : State), Executes .initCtrl arg s → rest s = .next t →
    EventSteps (enterInit x arg j s) t

/-- A step of the FSM, then what follows it. -/
theorem StepRuns.andThen {x : InitState} {cycle rest : State → Result} (h : StepRuns x cycle)
    (hrest : ∀ (arg : Byte) (j : Nat) (s t : State), Executes .initCtrl arg s → s.is = x → rest s = .next t →
      EventSteps (initTransition arg j s) t) :
    RunsFrom x fun s => andThen (atState x s cycle) rest := by
  intro arg j s t hx hrun
  obtain ⟨u, hu, hrun⟩ := andThen_eq_next hrun
  have hx' : Executes .initCtrl arg { s with is := x } := hx.of_kept ((Kept.refl s).regs _ _ _ _)
  obtain ⟨hkept, his, j', hsteps⟩ := h arg j _ u hx' rfl hu
  exact hsteps.trans (hrest arg j' u t (hx'.of_kept hkept) his hrun)

/-- A step of the FSM that leads to one other. -/
theorem StepRuns.thenEnter {x y : InitState} {cycle rest : State → Result} (h : StepRuns x cycle)
    (hto : ∀ (arg : Byte) (j : Nat) (s : State), s.is = x → initTransition arg j s = enterInit y arg j s)
    (hrest : RunsFrom y rest) : RunsFrom x fun s => Machine.andThen (atState x s cycle) rest :=
  h.andThen fun arg j s t hx his hrun => hto arg j s his ▸ hrest arg j s t hx hrun

/-- A poll of the tail: on a ready sample the sequence goes on, on TIMEOUT it ends (R213, R217). -/
theorem afterTailPoll_runs {y : InitState} {next : State → Result} (hnext : RunsFrom y next) {arg : Byte} {j : Nat}
    {s t : State} (hx : Executes .initCtrl arg s)
    (hrun : (if pollStatus s = .timeout then .next (finishInitCtrl s) else next s) = .next t) :
    EventSteps (afterTailPoll y arg j s) t := by
  unfold afterTailPoll
  split at hrun
  · next htimeout =>
    cases hrun
    rw [if_pos htimeout]
    exact .refl _
  · next hready =>
    rw [if_neg hready]
    exact hnext arg j s t hx hrun

/-- A busy-checked write of the tail. -/
theorem runsFrom_checkedWrite {write poll : InitState} {v : Byte} {next : State → Result}
    (hwrite : ∀ s : State, s.is = write → initPart s = .fixed (writeEvents s.mode false v))
    (hto : ∀ (arg : Byte) (j : Nat) (s : State), s.is = write → initTransition arg j s = enterInit poll arg j s)
    (hpoll : ∀ s : State, s.is = poll → initPart s = .poll)
    (hafter : ∀ (arg : Byte) (j : Nat) (s t : State), Executes .initCtrl arg s → s.is = poll →
      (if pollStatus s = .timeout then .next (finishInitCtrl s) else next s) = .next t →
      EventSteps (initTransition arg j s) t) :
    RunsFrom write (checkedWrite write poll v next) :=
  (stepRuns_write (fun _ => v) hwrite).thenEnter hto ((stepRuns_poll hpoll).andThen hafter)

/-! ## The sequence -/

theorem runsFrom_entry : RunsFrom .em (checkedWrite .em .emP codeEntry fun s => .next (finishInitCtrl s)) := by
  refine runsFrom_checkedWrite (fun s his => by rw [initPart, his]) (fun arg j s his => by rw [initTransition, his])
    (fun s his => by rw [initPart, his]) fun arg j s t _ his hrun => ?_
  rw [ite_self] at hrun
  cases hrun
  rw [initTransition, his]
  exact .refl _

theorem runsFrom_tail : RunsFrom .dc initTail := by
  have hclear : RunsFrom .clr
      (checkedWrite .clr .clrP codeClear (checkedWrite .em .emP codeEntry fun s => .next (finishInitCtrl s))) := by
    refine runsFrom_checkedWrite (fun s his => by rw [initPart, his]) (fun arg j s his => by rw [initTransition, his])
      (fun s his => by rw [initPart, his]) fun arg j s t hx his hrun => ?_
    rw [initTransition, his]
    exact afterTailPoll_runs runsFrom_entry hx hrun
  refine runsFrom_checkedWrite (fun s his => by rw [initPart, his]) (fun arg j s his => by rw [initTransition, his])
    (fun s his => by rw [initPart, his]) fun arg j s t hx his hrun => ?_
  rw [initTransition, his]
  exact afterTailPoll_runs hclear hx hrun

theorem runsFrom_functionSets : RunsFrom .fs1 fun s => andThen (initFunctionSets s) initTail := by
  have hd2 : RunsFrom .d2 _ := (stepRuns_delay (·.cfg.delayFs2Us) fun s his => by rw [initPart, his]).thenEnter
    (fun arg j s his => by rw [initTransition, his]) runsFrom_tail
  have hfs2 : RunsFrom .fs2 _ := (stepRuns_write funcsetCode fun s his => by rw [initPart, his]).thenEnter
    (fun arg j s his => by rw [initTransition, his]) hd2
  have hd1 : RunsFrom .d1 _ := (stepRuns_delay (·.cfg.delayFs1Us) fun s his => by rw [initPart, his]).thenEnter
    (fun arg j s his => by rw [initTransition, his]) hfs2
  have hfs1 : RunsFrom .fs1 _ := (stepRuns_write funcsetCode fun s his => by rw [initPart, his]).thenEnter
    (fun arg j s his => by rw [initTransition, his]) hd1
  simpa only [initFunctionSets, andThen_assoc] using hfs1

theorem runsFrom_prelim : RunsFrom .pre init4 :=
  (stepRuns_fixed (fun _ => w4n false codePrelim) (fun s his => by rw [initPart, his]) fun _ => nofun).thenEnter
    (fun arg j s his => by rw [initTransition, his]) runsFrom_functionSets

/-- INIT_CTRL event by event ends where its sequence ends (R216). -/
theorem initCtrl_runs {arg : Byte} {s t : State} (hx : Executes .initCtrl arg s) (hrun : execInitCtrl arg s = .next t) :
    EventSteps (beginCommand .initCtrl arg s) t := by
  have hm : s.mode ≠ .undef := (executes_iff.1 hx.accepted).2.2 nofun nofun
  rw [execInitCtrl, inSession_bound hm] at hrun
  rw [beginCommand]
  cases hmode : s.mode with
  | undef => exact absurd hmode hm
  | m4 =>
    rw [hmode] at hrun
    exact runsFrom_prelim arg 0 s t hx hrun
  | m8 =>
    rw [hmode] at hrun
    exact runsFrom_functionSets arg 0 s t hx hrun

end Sys2Proof.Machine

/-! # A command run event by event reaches its whole meaning

From rest, accepting a command and running it one event a step ends in the state that its whole meaning gives (00_scope.md R7,
R14; log 1), and within 72 + 18·N steps (44_busy_poll.md R197, 45_init_fsm.md R219). -/

namespace Sys2Proof.Machine

/-! ## What a command's answer leaves alone -/

/-- `t` is `s` after bus activity and a response, with FAULT set or not. -/
def Answer (s t : State) : Prop := ∃ u st d fault, Kept s u ∧ t = { respond st d u with fault := fault }

theorem Kept.answer {s u : State} (h : Kept s u) (st : Status) (d : Byte) : Answer s (respond st d u) :=
  ⟨u, st, d, u.fault, h, rfl⟩

theorem raiseContractFault_answer (s : State) : Answer s (raiseContractFault s) := ⟨s, .contract, 0x00, true, .refl s, rfl⟩

theorem inSession_answer {s t : State} {r : Result} (h : inSession s r = .next t) (hr : s.mode ≠ .undef → Answer s t) :
    Answer s t := by
  by_cases hm : s.mode = .undef
  · rw [inSession_undef hm] at h
    cases h
    exact ⟨s, .notInit, 0xFF, true, .refl s, rfl⟩
  · exact hr hm

theorem writeCommand_answer {rs : Bool} {v : Byte} {s t : State} (h : writeCommand rs v s = .next t) : Answer s t :=
  inSession_answer h fun hm => by
    obtain ⟨u, hu, rfl⟩ := writeCommand_kept hm h
    exact hu.answer ..

theorem readCommand_answer {rs : Bool} {s t : State} (h : readCommand rs s = .next t) : Answer s t :=
  inSession_answer h fun hm => by
    obtain ⟨u, hu, rfl⟩ := readCommand_kept hm h
    exact hu.answer ..

theorem pollCommand_answer {s t : State} (h : pollCommand s = .next t) : Answer s t :=
  inSession_answer h fun hm => by
    obtain ⟨u, hu, rfl⟩ := pollCommand_kept hm h
    exact hu.answer ..

theorem execInitCtrl_answer (arg : Byte) {s t : State} (h : execInitCtrl arg s = .next t) : Answer s t :=
  inSession_answer h fun hm => by
    obtain ⟨u, hu, rfl⟩ := execInitCtrl_polled hm h
    exact hu.answer ..

/-- `t` is `s` after a command: its response waits, and of what lies outside the block nothing has changed but the answers drawn
and the trace, which has events of the bound width more. -/
structure Responds (s t : State) : Prop where
  rspValid : t.rspValid = true
  seq : t.seq = .idle
  queue : t.queue = s.queue
  delivered : t.delivered = s.delivered
  rspReady : t.rspReady = s.rspReady
  resetReq : t.resetReq = s.resetReq
  cfg : t.cfg = s.cfg
  pace : t.pace = s.pace
  trace : ∃ es, t.trace = s.trace ++ es ∧ ∀ e ∈ es, widthFits s.mode e

theorem Answer.responds {s t : State} (h : Answer s t) : Responds s t := by
  obtain ⟨u, st, d, fault, hu, rfl⟩ := h
  exact ⟨rfl, rfl, hu.queue, hu.delivered, hu.rspReady, hu.resetReq, hu.cfg, hu.pace, hu.trace⟩

theorem Answer.mode {s t : State} (h : Answer s t) : t.mode = s.mode := by
  obtain ⟨u, st, d, fault, hu, rfl⟩ := h
  exact hu.mode

theorem execInit_responds {arg : Byte} {s t : State} (h : execInit arg s = .next t) : Responds s t := by
  unfold execInit at h
  split at h
  · cases h
    exact (raiseContractFault_answer s).responds
  · split at h
    · cases h
      exact (raiseContractFault_answer s).responds
    · obtain ⟨u, hu, h⟩ := andThen_eq_next h
      cases h
      have hk := emit_kept hu
      exact ⟨rfl, rfl, hk.queue, hk.delivered, hk.rspReady, hk.resetReq, hk.cfg, hk.pace, hk.trace⟩

theorem execDeinit_responds (arg : Byte) {s t : State} (h : execDeinit arg s = .next t) : Responds s t := by
  obtain ⟨u, hu, h⟩ := andThen_eq_next h
  cases h
  have hk := emit_kept hu
  exact ⟨rfl, rfl, hk.queue, hk.delivered, hk.rspReady, hk.resetReq, hk.cfg, hk.pace, hk.trace⟩

theorem execOp_responds {op : Op} {arg : Byte} {s t : State} (h : execOp op arg s = .next t) : Responds s t := by
  cases op with
  | init => exact execInit_responds h
  | deinit => exact execDeinit_responds arg h
  | writeInstr | writeData => exact (writeCommand_answer h).responds
  | readInstr | readData => exact (readCommand_answer h).responds
  | waitBusy => exact (pollCommand_answer h).responds
  | initCtrl => exact (execInitCtrl_answer arg h).responds
  | reserved c =>
    cases h
    exact (raiseContractFault_answer s).responds

/-! ## A command that is turned away -/

/-- INIT of a bad width, and INIT in a session (R265). -/
theorem rejection_init {arg : Byte} {s : State} (h : busWidth arg = none ∨ s.mode ≠ .undef) :
    rejection .init arg s = some (raiseContractFault s) := by
  cases hw : busWidth arg with
  | none => simp [rejection, hw]
  | some m =>
    have hm : s.mode ≠ .undef := h.resolve_left (by simp [hw])
    simp [rejection, hw, hm]

theorem execOp_rejected {op : Op} {arg : Byte} {s t : State} (h : rejection op arg s = some t) :
    execOp op arg s = .next t := by
  have unbound {r : Result} (hs : (if s.mode = .undef then some (notInitStub s) else none) = some t) :
      inSession s r = .next t := by
    split at hs
    · next hm =>
      cases hs
      exact inSession_undef hm
    · cases hs
  cases op with
  | reserved c =>
    cases h
    rfl
  | deinit => cases h
  | init =>
    by_cases hbad : busWidth arg = none ∨ s.mode ≠ .undef
    · rw [rejection_init hbad] at h
      cases h
      exact exec_init_rejected hbad
    · obtain ⟨hwidth, hm⟩ := not_or.1 hbad
      have hnone : rejection .init arg s = none :=
        executes_iff.2 ⟨nofun, fun _ => ⟨Option.isSome_iff_ne_none.2 hwidth, not_not.1 hm⟩, fun hne => absurd rfl hne⟩
      rw [h] at hnone
      cases hnone
  | writeInstr | writeData | readInstr | readData | waitBusy | initCtrl => exact unbound h

/-- A command that is turned away answers in its first step. -/
theorem step_rejected {op : Op} {arg : Byte} {s t : State} (hv : s.cfg.valid = true) (hr : s.resetReq = false)
    (hrsp : s.rspValid = false) (hi : s.is = .idle) (h : rejection op arg s = some t) :
    step (beginCommand op arg s) = .next t := by
  rw [beginCommand_eq, begun_of_rejection hi h]
  rw [step_of_run (s := running op arg 0 0 0x00 s) hv hr hrsp rfl, tick_rejected ((rejection_running ..).trans h)]

/-! ## A command that executes -/

theorem execOp_runs {op : Op} {arg : Byte} {s t : State} (hx : Executes op arg s) (h : execOp op arg s = .next t) :
    EventSteps (beginCommand op arg s) t := by
  have hm (h1 : op ≠ .init) (h2 : op ≠ .deinit) : s.mode ≠ .undef := (executes_iff.1 hx.accepted).2.2 h1 h2
  have inPart (p : Part) (hp : partOf op arg s = p) : InPart op arg p s := ⟨hx, hp⟩
  by_cases hinit : op = .initCtrl
  · subst hinit
    exact initCtrl_runs hx h
  rw [beginCommand_eq, begun_of_ne hinit]
  cases op with
  | initCtrl => exact absurd rfl hinit
  | reserved c => exact absurd rfl ((executes_iff.1 hx.accepted).1 c)
  | init =>
    obtain ⟨hwidth, hmode⟩ := (executes_iff.1 hx.accepted).2.1 rfl
    obtain ⟨m, hm'⟩ := Option.isSome_iff_exists.1 hwidth
    simp only [execOp, execInit, hm', hmode, ne_eq, not_true_eq_false, if_false] at h
    obtain ⟨u, hu, h⟩ := andThen_eq_next h
    cases h
    obtain ⟨j', hsteps⟩ := (inPart _ rfl).fixed (List.cons_ne_nil _ _) ((emitAll_singleton _ s).trans hu) 0 0x00
    simpa only [completePart, hm', Option.getD_some] using hsteps
  | deinit =>
    rw [execOp, execDeinit] at h
    obtain ⟨u, hu, h⟩ := andThen_eq_next h
    cases h
    obtain ⟨j', hsteps⟩ := (inPart _ rfl).fixed (List.cons_ne_nil _ _) ((emitAll_singleton _ s).trans hu) 0 0x00
    exact hsteps
  | writeInstr | writeData =>
    rw [execOp, writeCommand, inSession_bound (hm nofun nofun)] at h
    obtain ⟨u, hu, h⟩ := andThen_eq_next h
    cases h
    obtain ⟨j', hsteps⟩ := (inPart _ rfl).fixed (writeEvents_ne_nil s.mode _ arg) hu 0 0x00
    exact hsteps
  | readInstr | readData =>
    rw [execOp, readCommand, inSession_bound (hm nofun nofun)] at h
    obtain ⟨u, hu, h⟩ := andThen_eq_next h
    cases h
    obtain ⟨j', hsteps⟩ := (inPart _ rfl).readCycle (hm nofun nofun) hu 0 0x00
    exact hsteps
  | waitBusy =>
    rw [execOp, pollCommand, inSession_bound (hm nofun nofun)] at h
    obtain ⟨u, hu, h⟩ := andThen_eq_next h
    cases h
    obtain ⟨j', hsteps⟩ := (inPart _ rfl).pollCycle (hm nofun nofun) hu 0 0x00
    exact hsteps

/-- An accepted command reaches its whole meaning: turned away in one step, else in one step for each of its events. -/
theorem beginCommand_reaches {op : Op} {arg : Byte} {s t : State} (hv : s.cfg.valid = true) (hr : s.resetReq = false)
    (hrsp : s.rspValid = false) (hi : s.is = .idle) (h : execOp op arg s = .next t) :
    ∃ n, Host.Core.run Sys2Proof.core n (beginCommand op arg s) = .next t ∧
      (n = 1 ∨ t.trace.length = s.trace.length + n) := by
  cases hrej : rejection op arg s with
  | some u =>
    rw [execOp_rejected hrej] at h
    cases h
    exact ⟨1, run_succ (step_rejected hv hr hrsp hi hrej), .inl rfl⟩
  | none =>
    obtain ⟨n, hrun, hlen⟩ := execOp_runs ⟨hv, hr, hrsp, hrej⟩ h
    refine ⟨n, hrun, .inr ?_⟩
    rw [hlen, beginCommand_eq]
    rfl

/-! ## From the offer on -/

/-- The block takes a packet in its next step, event-paced. -/
structure Ready (s : State) : Prop extends AtRest s where
  idle : s.seq = .idle
  noResponse : s.rspValid = false
  noReset : s.resetReq = false
  paced : s.pace = .event

/-- In IDLE, event-paced, the packet offered is accepted. -/
theorem step_accepts {p : Packet} {rest : List Packet} {i : Instr} {s t : State} (hv : s.cfg.valid = true)
    (hr : s.resetReq = false) (hrsp : s.rspValid = false) (hs : s.seq = .idle) (hpace : s.pace = .event)
    (hq : s.queue = p :: rest) (hd : decode p = .ok i) (ha : accept i { s with queue := rest } = some t) :
    step s = .next t := by
  rw [step_of_idle hv hr hrsp hs, fetch_of_packet hq hd]
  exact runOffered_accepted (s := { s with queue := rest }) hpace ha

theorem Ready.accepts {p : Packet} {rest : List Packet} {i : Instr} {s t : State} (h : Ready s) (hq : s.queue = p :: rest)
    (hd : decode p = .ok i) (ha : accept i { s with queue := rest } = some t) : step s = .next t :=
  step_accepts h.valid h.noReset h.noResponse h.idle h.paced hq hd ha

theorem AtRest.tail {p : Packet} {rest : List Packet} {s : State} (h : AtRest s) (hq : s.queue = p :: rest) :
    AtRest { s with queue := rest } := by
  have hhost := h.host
  rw [hq, List.forall_mem_cons] at hhost
  exact ⟨h.valid, h.count, hhost.2, h.is, h.lines⟩

/-- A command word is run to its whole meaning. -/
theorem Ready.command_reaches {p : Packet} {rest : List Packet} {op : Op} {arg : Byte} {s t : State} (h : Ready s)
    (hq : s.queue = p :: rest) (hop : op.named) (hd : decode p = .ok (instrOfOp op arg))
    (hexec : execOp op arg { s with queue := rest } = .next t) :
    ∃ n, Host.Core.run Sys2Proof.core (n + 1) s = .next t ∧ (n = 1 ∨ t.trace.length = s.trace.length + n) := by
  obtain ⟨n, hrun, hlen⟩ :=
    beginCommand_reaches (s := { s with queue := rest }) h.valid h.noReset h.noResponse h.is hexec
  exact ⟨n, (run_succ (h.accepts hq hd (accept_instrOfOp hop arg _))).trans hrun, hlen⟩

theorem Mode.cases (m : Mode) : m = .undef ∨ m = .m4 ∨ m = .m8 := by
  cases m <;> simp

/-- A write command does not read the queue. -/
theorem writeCommand_queue {rs : Bool} {v : Byte} {s t : State} (h : writeCommand rs v s = .next t) (q : List Packet) :
    writeCommand rs v { s with queue := q } = .next { t with queue := q } := by
  have same {m : Mode} (hm : s.mode = m) : ({ s with queue := q } : State).mode = m := hm
  obtain hm | hm | hm := s.mode.cases
  · rw [writeCommand, inSession_undef hm] at h
    cases h
    exact inSession_undef (same hm)
  · rw [writeCommand_eq4 rs v hm] at h
    cases h
    exact writeCommand_eq4 rs v (same hm)
  · rw [writeCommand_eq8 rs v hm] at h
    cases h
    exact writeCommand_eq8 rs v (same hm)

/-- A pseudo-instruction is run to its whole meaning: the write; then, when the host takes its response, WAIT_BUSY (log 17). -/
theorem Ready.pseudo_reaches {p : Packet} {rest : List Packet} {rs : Bool} {v : Byte} {s t : State} (h : Ready s)
    (hq : s.queue = p :: rest) (hd : decode p = .ok (pseudoInstr rs v))
    (hexec : checkedCommand rs v { s with queue := rest } = .next t) :
    ∃ n, Host.Core.run Sys2Proof.core n s = .next t := by
  obtain ⟨w, hw, hexec⟩ := andThen_eq_next hexec
  have hresp := (writeCommand_answer hw).responds
  have hqueue : w.queue = rest := hresp.queue
  have hrest := h.toAtRest.tail hq
  have hwrite : execOp (writeOp rs) v { s with queue := .command waitBusyWord :: rest } =
      .next { w with queue := .command waitBusyWord :: rest } :=
    (execOp_writeOp rs v _).trans (writeCommand_queue (s := { s with queue := rest }) hw _)
  obtain ⟨n, hrun, -⟩ := beginCommand_reaches (s := { s with queue := .command waitBusyWord :: rest }) h.valid h.noReset
    h.noResponse h.is hwrite
  have hwritten : Host.Core.run Sys2Proof.core (n + 1) s = .next { w with queue := .command waitBusyWord :: rest } :=
    (run_succ (h.accepts hq hd (accept_pseudoInstr rs v _))).trans hrun
  split at hexec
  · next hready =>
    obtain ⟨w', hw', -, hrest'⟩ := writeCommand_rests hrest rs v
    obtain rfl : w = w' := by simpa [hw] using hw'
    have hvalid : w.cfg.valid = true := hresp.cfg ▸ h.valid
    have htaken : step { w with queue := .command waitBusyWord :: rest } =
        .next (takeResponse { w with queue := .command waitBusyWord :: rest }) := by
      rw [step_of_response (s := { w with queue := .command waitBusyWord :: rest }) hvalid (hresp.resetReq.trans h.noReset)
        hresp.rspValid]
      exact if_pos hready
    have hagain : Ready (takeResponse { w with queue := .command waitBusyWord :: rest }) :=
      { valid := hvalid, count := hrest'.count, is := hrest'.is, lines := hrest'.lines
        host := List.forall_mem_cons.2 ⟨rfl, hrest.host⟩
        idle := hresp.seq, noResponse := rfl, noReset := hresp.resetReq.trans h.noReset
        paced := hresp.pace.trans h.paced }
    have hpoll : execOp .waitBusy 0x00
        { takeResponse { w with queue := .command waitBusyWord :: rest } with queue := rest } = .next t := by
      have hsame : takeResponse w = { takeResponse w with queue := rest } := by
        rw [← hqueue]
        rfl
      rw [hsame] at hexec
      exact hexec
    obtain ⟨m, hpolled, -⟩ := hagain.command_reaches rfl (op := .waitBusy) (arg := 0x00) nofun rfl hpoll
    exact ⟨_, (run_add hwritten).trans ((run_succ htaken).trans hpolled)⟩
  · cases hexec
    refine ⟨n + 1, ?_⟩
    rw [hwritten, hresp.queue]

theorem ready_of_blockInv {s : State} (h : BlockInv s) (hs : s.seq = .idle) (hrsp : s.rspValid = false)
    (hr : s.resetReq = false) (hpace : s.pace = .event) : Ready s :=
  { (blockInv_idle hs).1 h with idle := hs, noResponse := hrsp, noReset := hr, paced := hpace }

/-- Settles O53: a command by its events or its answer without one, a pseudo-instruction by its two commands. -/
theorem eventStepsReachTheCommandsMeaning : Obligations.EventStepsReachTheCommandsMeaning := by
  intro p i rest s hinv hs hrsp hr hpace hq hd
  have h := ready_of_blockInv hinv hs hrsp hr hpace
  have hhost := h.host
  rw [hq, List.forall_mem_cons] at hhost
  obtain ⟨i', hd', hi⟩ := decode_fromHost hhost.1
  obtain rfl : i = i' := by simpa [hd] using hd'
  obtain ⟨t, hexec, -⟩ := hi.rests (h.toAtRest.tail hq)
  cases hi with
  | command hop arg =>
    obtain ⟨n, hrun, -⟩ := h.command_reaches hq hop hd ((exec_instrOfOp hop arg _).symm.trans hexec)
    exact ⟨_, t, hexec, hrun⟩
  | pseudo rs v =>
    obtain ⟨n, hrun⟩ := h.pseudo_reaches hq hd ((exec_pseudoInstr rs v _).symm.trans hexec)
    exact ⟨n, t, hexec, hrun⟩

/-! ## How many steps that takes -/

theorem writeCommand_trace_le {rs : Bool} {v : Byte} {s t : State} (hm : s.mode ≠ .undef)
    (h : writeCommand rs v s = .next t) : t.trace.length ≤ s.trace.length + 11 := by
  obtain hm' | hm' | hm' := s.mode.cases
  · exact absurd hm' hm
  · rw [writeCommand_eq4 rs v hm'] at h
    cases h
    simp
  · rw [writeCommand_eq8 rs v hm'] at h
    cases h
    simp

theorem readCommand_trace_le {rs : Bool} {s t : State} (hread : busReadable s) (h : readCommand rs s = .next t) :
    t.trace.length ≤ s.trace.length + 8 := by
  obtain ⟨hm, hin⟩ | ⟨hm, hin⟩ := hread
  · rw [readCommand_eq8 rs hm hin] at h
    cases h
    simp
  · rw [readCommand_eq4 rs hm hin] at h
    cases h
    simp [sampleTrace4]

theorem pollCommand_trace_le {s t : State} (hread : busReadable s) (hN : 1 ≤ s.cfg.busyRetryMax)
    (h : pollCommand s = .next t) : t.trace.length ≤ s.trace.length + (4 + 6 * s.cfg.busyRetryMax) := by
  obtain ⟨u, hu, -, hcount, -, -, -, -, -, h8, h4, -⟩ := waitBusyAlwaysCompletes 0x00 s hread hN
  obtain rfl : t = u := by simpa [exec_waitBusy, h] using hu
  obtain ⟨hm, -⟩ | ⟨hm, -⟩ := hread
  · have := h8 hm
    omega
  · have := h4 hm
    omega

/-- Three whole polls are the longest outcome of INIT_CTRL (R218). -/
theorem finishInitCtrl_trace_le {n w m k1 k2 k3 : Nat} {s one two three : State} {ok1 ok2 ok3 : Bool}
    (h1 : AfterPoll n w m s one ok1 k1) (h2 : AfterPoll n w m one two ok2 k2) (h3 : AfterPoll n w m two three ok3 k3)
    (hk1 : k1 ≤ n) (hk2 : k2 ≤ n) (hk3 : k3 ≤ n) :
    (finishInitCtrl (if ok1 then if ok2 then three else two else one)).trace.length ≤
      s.trace.length + 3 * (w + m * n) := by
  have hl1 := h1.length
  have hl2 := h2.length
  have hl3 := h3.length
  have hm1 := Nat.mul_le_mul_left m hk1
  have hm2 := Nat.mul_le_mul_left m hk2
  have hm3 := Nat.mul_le_mul_left m hk3
  change (if ok1 then if ok2 then three else two else one : State).trace.length ≤ _
  split_ifs <;> omega

theorem execInitCtrl_trace_le {arg : Byte} {s t : State} (hread : busReadable s) (hN : 1 ≤ s.cfg.busyRetryMax)
    (h : execInitCtrl arg s = .next t) : t.trace.length ≤ s.trace.length + (71 + 18 * s.cfg.busyRetryMax) := by
  obtain ⟨hm, -⟩ | ⟨hm, -⟩ := hread
  · obtain ⟨one, two, three, hrun, h1, h2, h3⟩ := execInitCtrl_polls8 arg hN hm rfl rfl rfl rfl
    have ht := Host.Outcome.next.inj (h.symm.trans hrun)
    have hle := finishInitCtrl_trace_le h1 h2 h3 (sampleCount_le _ _) (sampleCount_le _ _) (sampleCount_le _ _)
    rw [← ht, setUp8_trace_length] at hle
    omega
  · obtain ⟨one, two, three, hrun, h1, h2, h3⟩ := execInitCtrl_polls4 arg hN hm rfl rfl rfl rfl
    have ht := Host.Outcome.next.inj (h.symm.trans hrun)
    have hle := finishInitCtrl_trace_le h1 h2 h3 (sampleCount_le _ _) (sampleCount_le _ _) (sampleCount_le _ _)
    rw [← ht, setUp4_trace_length] at hle
    omega

theorem execOp_trace_le {op : Op} {arg : Byte} {s t : State} (h : AtRest s) (hexec : execOp op arg s = .next t) :
    t.trace.length ≤ s.trace.length + (71 + 18 * s.cfg.busyRetryMax) := by
  cases hrej : rejection op arg s with
  | some u =>
    rw [execOp_rejected hrej] at hexec
    cases hexec
    rw [rejection_trace hrej]
    omega
  | none =>
    have hm (h1 : op ≠ .init) (h2 : op ≠ .deinit) : s.mode ≠ .undef := (executes_iff.1 hrej).2.2 h1 h2
    have hread (h1 : op ≠ .init) (h2 : op ≠ .deinit) : busReadable s := idleLines_readable (hm h1 h2) h.lines
    cases op with
    | reserved c => exact absurd rfl ((executes_iff.1 hrej).1 c)
    | init =>
      obtain ⟨hwidth, hmode⟩ := (executes_iff.1 hrej).2.1 rfl
      obtain ⟨m, hm'⟩ := Option.isSome_iff_exists.1 hwidth
      have ht := Host.Outcome.next.inj (hexec.symm.trans (exec_init_of_width hm' hmode))
      subst ht
      simp
      omega
    | deinit =>
      have ht := Host.Outcome.next.inj (hexec.symm.trans (exec_deinit_eq arg s))
      subst ht
      simp
      omega
    | writeInstr | writeData => exact (writeCommand_trace_le (hm nofun nofun) hexec).trans (by omega)
    | readInstr | readData => exact (readCommand_trace_le (hread nofun nofun) hexec).trans (by omega)
    | waitBusy => exact (pollCommand_trace_le (hread nofun nofun) h.retries hexec).trans (by omega)
    | initCtrl => exact execInitCtrl_trace_le (arg := arg) (hread nofun nofun) h.retries hexec

/-- Settles O54: a command turned away takes two steps, every other one the accepting step and one for each event. -/
theorem everyCommandRespondsInBoundedSteps : Obligations.EveryCommandRespondsInBoundedSteps := by
  intro w rest s hinv hs hrsp hr hpace hq
  have h := ready_of_blockInv hinv hs hrsp hr hpace
  obtain ⟨op, hop, arg, hd⟩ := decodeCommand_named w
  have hrest := h.toAtRest.tail hq
  obtain ⟨t, hexec, -⟩ := execOp_rests hrest op arg
  obtain ⟨n, hrun, hn⟩ := h.command_reaches hq hop (congrArg Except.ok hd) hexec
  have hresp := execOp_responds hexec
  have hle := execOp_trace_le hrest hexec
  exact ⟨n + 1, t, by dsimp only at hle; omega, hrun, hresp.rspValid, hresp.seq, hresp.queue, hresp.delivered⟩

end Sys2Proof.Machine

/-! # Whole-machine rules

What every instruction and every step keeps: MODE, the configuration, and the histories of events and responses, which only grow
(00_scope.md R11; 20_memory.md R55, R59, R60; 41_session.md R134); and which commands answer TIMEOUT (60_exceptions.md R260). -/

namespace Sys2Proof.Machine

/-! ## Histories -/

/-- `t` has the configuration of `s` and its histories, with events of the bound width and responses added at their ends. -/
structure OnlyAdds (s t : State) : Prop where
  cfg : t.cfg = s.cfg
  trace : ∃ es, t.trace = s.trace ++ es ∧ ∀ e ∈ es, widthFits s.mode e
  delivered : ∃ rs, t.delivered = s.delivered ++ rs

/-- The same without a change of MODE. -/
structure AddsInMode (s t : State) : Prop extends OnlyAdds s t where
  mode : t.mode = s.mode

theorem AddsInMode.thenAdds {s t u : State} (h : AddsInMode s t) (h' : OnlyAdds t u) : OnlyAdds s u := by
  obtain ⟨es, hes, hfits⟩ := h.trace
  obtain ⟨es', hes', hfits'⟩ := h'.trace
  obtain ⟨rs, hrs⟩ := h.delivered
  obtain ⟨rs', hrs'⟩ := h'.delivered
  refine ⟨h'.cfg.trans h.cfg, ⟨es ++ es', ?_, fun e he => ?_⟩, rs ++ rs', ?_⟩
  · rw [hes', hes, List.append_assoc]
  · obtain he | he := List.mem_append.1 he
    · exact hfits e he
    · exact h.mode ▸ hfits' e he
  · rw [hrs', hrs, List.append_assoc]

theorem AddsInMode.trans {s t u : State} (h : AddsInMode s t) (h' : AddsInMode t u) : AddsInMode s u :=
  ⟨h.thenAdds h'.toOnlyAdds, h'.mode.trans h.mode⟩

theorem OnlyAdds.of_eq {s t : State} (hcfg : t.cfg = s.cfg) (htrace : t.trace = s.trace)
    (hdelivered : t.delivered = s.delivered) : OnlyAdds s t :=
  ⟨hcfg, ⟨[], by simp [htrace], by simp⟩, [], by simp [hdelivered]⟩

theorem takeResponse_addsInMode (s : State) : AddsInMode s (takeResponse s) :=
  ⟨⟨rfl, ⟨[], by simp, by simp⟩, [waiting s], rfl⟩, rfl⟩

theorem Kept.addsInMode {s t : State} (h : Kept s t) : AddsInMode s t :=
  ⟨⟨h.cfg, h.trace, [], by simp [h.delivered]⟩, h.mode⟩

theorem Responds.onlyAdds {s t : State} (h : Responds s t) : OnlyAdds s t :=
  ⟨h.cfg, h.trace, [], by simp [h.delivered]⟩

theorem Answer.addsInMode {s t : State} (h : Answer s t) : AddsInMode s t := ⟨h.responds.onlyAdds, h.mode⟩

/-! ## Every instruction -/

theorem checkedCommand_addsInMode {rs : Bool} {v : Byte} {s t : State} (h : checkedCommand rs v s = .next t) :
    AddsInMode s t := by
  obtain ⟨u, hu, h⟩ := andThen_eq_next h
  have hwrite := (writeCommand_answer hu).addsInMode
  split at h
  · exact (hwrite.trans (takeResponse_addsInMode u)).trans (pollCommand_answer h).addsInMode
  · cases h
    exact ⟨⟨hwrite.cfg, hwrite.trace, hwrite.delivered⟩, hwrite.mode⟩

theorem exec_addsInMode {i : Instr} {s t : State} (hinit : ∀ arg, i ≠ .init arg) (hdeinit : ∀ arg, i ≠ .deinit arg)
    (h : exec i s = .next t) : AddsInMode s t := by
  cases i with
  | init arg => exact absurd rfl (hinit arg)
  | deinit arg => exact absurd rfl (hdeinit arg)
  | writeInstr | writeData | setDdram => exact (writeCommand_answer h).addsInMode
  | readInstr | readData => exact (readCommand_answer h).addsInMode
  | waitBusy => exact (pollCommand_answer h).addsInMode
  | initCtrl arg => exact (execInitCtrl_answer arg h).addsInMode
  | reserved0 | reserved9 | reservedA | reservedB | reservedC | reservedD | reservedE | reservedF =>
    cases h
    exact (raiseContractFault_answer s).addsInMode
  | cwri | cwrd => exact checkedCommand_addsInMode h
  | portInit | portDeinit | setRs | clrRs | setRw | clrRw | setCe | clrCe | dirIn4 | dirIn8 | dirOut4 | dirOut8
  | out4 | out8 | in4 | in8 | delay =>
    rw [exec] at h
    exact (emit_kept h).addsInMode
  | funcset8 | dispctrl | clear | entry | prelim | funcset4 => exact (emitAll_kept h).addsInMode

theorem exec_onlyAdds {i : Instr} {s t : State} (h : exec i s = .next t) : OnlyAdds s t := by
  by_cases hinit : ∃ arg, i = .init arg
  · obtain ⟨arg, rfl⟩ := hinit
    exact (execInit_responds h).onlyAdds
  by_cases hdeinit : ∃ arg, i = .deinit arg
  · obtain ⟨arg, rfl⟩ := hdeinit
    exact (execDeinit_responds arg h).onlyAdds
  exact (exec_addsInMode (not_exists.1 hinit) (not_exists.1 hdeinit) h).toOnlyAdds

/-- Settles O33: an answer and bus activity both keep MODE. -/
theorem onlyInitAndDeinitWriteMode : Obligations.OnlyInitAndDeinitWriteMode := fun _ _ _ hinit hdeinit h =>
  (exec_addsInMode hinit hdeinit h).mode

/-! ## Every step -/

theorem initTransition_onlyAdds (arg : Byte) (j : Nat) (s : State) : OnlyAdds s (initTransition arg j s) := by
  have polled (x : InitState) : OnlyAdds s (afterTailPoll x arg j s) := by
    unfold afterTailPoll
    split <;> exact .of_eq rfl rfl rfl
  unfold initTransition
  cases s.is with
  | dcP | clrP => exact polled _
  | _ => exact .of_eq rfl rfl rfl

theorem completePart_onlyAdds (op : Op) (arg : Byte) (j : Nat) (s : State) : OnlyAdds s (completePart op arg j s) := by
  cases op with
  | initCtrl => exact initTransition_onlyAdds arg j s
  | _ => exact .of_eq rfl rfl rfl

theorem nextStep_onlyAdds {op : Op} {arg : Byte} {j i : Nat} {bound : Byte} {s t : State}
    (h : nextStep op arg j i bound s = .next t) : OnlyAdds s t := by
  obtain ⟨e, u, -, hv, rfl, hend⟩ := nextStep_eq_next h
  have hevent : AddsInMode s (eventDone (partOf op arg s) i e bound s) := (eventDone_kept hv).addsInMode
  obtain ⟨-, rfl⟩ | ⟨-, rfl⟩ := hend
  · exact hevent.thenAdds (completePart_onlyAdds ..)
  · exact hevent.thenAdds (.of_eq rfl rfl rfl)

theorem runOffered_onlyAdds {i : Instr} {s t : State} (h : runOffered i s = .next t) : OnlyAdds s t := by
  obtain ⟨-, haccept⟩ | hexec := runOffered_eq_next h
  · obtain ⟨op, arg, queue, rfl⟩ := accept_eq_some haccept
    rw [beginCommand_eq]
    exact .of_eq rfl rfl rfl
  · exact exec_onlyAdds hexec

theorem step_onlyAdds {s t : State} (h : step s = .next t) : OnlyAdds s t := by
  have same : OnlyAdds s s := .of_eq rfl rfl rfl
  obtain ⟨-, rfl⟩ | ⟨-, hadvance⟩ := step_eq_next h
  · exact .of_eq rfl rfl rfl
  obtain ⟨-, rfl | rfl⟩ | ⟨-, ⟨op, arg, j, i, bound, -, htick⟩ | ⟨-, hfetch⟩⟩ := advance_eq_next hadvance
  · exact (takeResponse_addsInMode s).toOnlyAdds
  · exact same
  · obtain hrej | ⟨-, hnext⟩ := tick_eq_next htick
    · obtain rfl | ⟨-, rfl⟩ := rejection_eq_some hrej <;> exact .of_eq rfl rfl rfl
    · exact nextStep_onlyAdds hnext
  · obtain ⟨-, rfl⟩ | ⟨p, rest, i, -, -, hrun⟩ := fetch_eq_next hfetch
    · exact same
    · have taken : AddsInMode s { s with queue := rest } := ⟨.of_eq rfl rfl rfl, rfl⟩
      exact taken.thenAdds (runOffered_onlyAdds hrun)

/-- Settles O36: a step is a reset, a hand-over, an answer, one event or a whole instruction, and each only adds. -/
theorem traceAndResponsesOnlyGrow : Obligations.TraceAndResponsesOnlyGrow := fun _ _ h =>
  have hadds := step_onlyAdds h
  ⟨hadds.trace.imp fun _ => And.left, hadds.delivered⟩

/-- Settles O37: by the same cases as O36. -/
theorem configurationNeverChanges : Obligations.ConfigurationNeverChanges := fun _ _ h => (step_onlyAdds h).cfg

/-- Settles O38: an event of the other width is a violation, so it is not emitted. -/
theorem eventsHaveTheBoundWidth : Obligations.EventsHaveTheBoundWidth := fun _ _ h => (step_onlyAdds h).trace

/-! ## TIMEOUT -/

theorem pollStatus_timeout {s : State} (h : pollStatus s = .timeout) : busy s.sample = true := by
  unfold pollStatus at h
  split at h
  · assumption
  · cases h

/-- A poll that answers TIMEOUT. -/
theorem timedOut_of_polled {s t u : State} (hu : Kept s u) (ht : t = respond (pollStatus u) 0x00 u)
    (hst : t.rspStatus = .timeout) :
    t.rspData = 0x00 ∧ t.fault = s.fault ∧ t.sample.getLsbD 7 = true ∧ t.seq = .idle := by
  subst ht
  exact ⟨rfl, hu.fault, pollStatus_timeout hst, rfl⟩

/-- In a command of the operation set a TIMEOUT comes from its bound form: the stub answers NOT_INIT. -/
theorem session_of_timeout {s t : State} {r : Result} (h : inSession s r = .next t) (hst : t.rspStatus = .timeout) :
    s.mode ≠ .undef := by
  intro hm
  rw [inSession_undef hm] at h
  cases h
  cases hst

theorem instrOfOp_waitBusy (arg : Byte) : instrOfOp .waitBusy arg = .waitBusy arg := by
  rw [instrOfOp, decodeCommand, opField_cmdWord, argField_cmdWord]
  rfl

theorem instrOfOp_initCtrl (arg : Byte) : instrOfOp .initCtrl arg = .initCtrl arg := by
  rw [instrOfOp, decodeCommand, opField_cmdWord, argField_cmdWord]
  rfl

/-- Settles O35: every other command's response is a fixed one. -/
theorem onlyPollsTimeOut : Obligations.OnlyPollsTimeOut := by
  intro w i s t hd hexec hst
  obtain rfl : decodeCommand w = i := Except.ok.inj hd
  obtain ⟨op, hop, arg, hw⟩ := decodeCommand_named w
  rw [hw] at hexec ⊢
  rw [exec_instrOfOp hop] at hexec
  cases op with
  | init =>
    by_cases hrej : busWidth arg = none ∨ s.mode ≠ .undef
    · cases hexec.symm.trans (exec_init_rejected hrej)
      cases hst
    · obtain ⟨hwidth, hm⟩ := not_or.1 hrej
      obtain ⟨m, hm'⟩ := Option.ne_none_iff_exists'.1 hwidth
      cases hexec.symm.trans (exec_init_of_width hm' (not_not.1 hm))
      cases hst
  | deinit =>
    cases hexec.symm.trans (exec_deinit_eq arg s)
    cases hst
  | writeInstr | writeData =>
    obtain ⟨u, -, rfl⟩ := writeCommand_kept (session_of_timeout hexec hst) hexec
    cases hst
  | readInstr | readData =>
    obtain ⟨u, -, rfl⟩ := readCommand_kept (session_of_timeout hexec hst) hexec
    cases hst
  | waitBusy =>
    obtain ⟨u, hu, ht⟩ := pollCommand_kept (session_of_timeout hexec hst) hexec
    exact ⟨.inl ⟨arg, instrOfOp_waitBusy arg⟩, timedOut_of_polled hu ht hst⟩
  | initCtrl =>
    obtain ⟨u, hu, ht⟩ := execInitCtrl_polled (arg := arg) (session_of_timeout hexec hst) hexec
    exact ⟨.inr ⟨arg, instrOfOp_initCtrl arg⟩, timedOut_of_polled hu ht hst⟩
  | reserved c =>
    cases hexec
    cases hst

end Sys2Proof.Machine

/-! # What one step does

The step in IDLE, at a waiting response, at an accepted command that is turned away, and at one that executes (00_scope.md R7,
R8; 10_state.md R30; 20_memory.md R51, R62; 45_init_fsm.md R215; 60_exceptions.md R265). -/

namespace Sys2Proof.Machine

theorem valid_of_retries {s : State} (h : s.cfg.busyRetryMax ≠ 0) : s.cfg.valid = true :=
  (config_valid_iff _).2 (Nat.one_le_iff_ne_zero.2 h)

/-! ## The configuration, the response channel and IDLE -/

/-- Settles O19: the configuration comes before reset and everything else. -/
theorem retryCeilingZeroIsRefused : Obligations.RetryCeilingZeroIsRefused := by
  intro s h
  have hinvalid : s.cfg.valid = false := by simp [Config.valid, h]
  exact if_pos hinvalid

/-- Settles O45: the response comes before everything but a reset. -/
theorem responseHandshake : Obligations.ResponseHandshake := by
  intro s hN hr hrsp
  rw [step_of_response (valid_of_retries hN) hr hrsp]
  exact ⟨fun hready => if_pos hready, fun hready => if_neg (by simp [hready])⟩

/-- Settles O46: the fetch of an empty queue. -/
theorem idleBlockWaits : Obligations.IdleBlockWaits := by
  intro s hN hr hrsp hs hq
  rw [step_of_idle (valid_of_retries hN) hr hrsp hs, fetch, hq]

/-- Settles O39: the fetch of a packet, at the pace of one command. -/
theorem stepRunsTheDecodedInstruction : Obligations.StepRunsTheDecodedInstruction := by
  intro p rest i s hN hr hrsp hs hpace hq hd
  rw [step_of_idle (valid_of_retries hN) hr hrsp hs, fetch_of_packet hq hd]
  exact runOffered_command (s := { s with queue := rest }) hpace

/-! ## Accepting -/

theorem firstInitState_eq (m : Mode) : firstInitState m = if m = .m4 then .pre else if m = .m8 then .fs1 else .idle := by
  cases m <;> rfl

/-- Settles O40: a command's word decodes to the instruction whose acceptance begins it, a pair to the pseudo-instruction. -/
theorem acceptingStartsTheSequencer : Obligations.AcceptingStartsTheSequencer := by
  intro arg rest s hN hr hrsp hs hpace
  have begins {p : Packet} {i : Instr} {t : State} (hq : s.queue = p :: rest) (hd : decode p = .ok i)
      (ha : accept i { s with queue := rest } = some t) : step s = .next t :=
    step_accepts (valid_of_retries hN) hr hrsp hs hpace hq hd ha
  refine ⟨fun op hop hnamed hq => ⟨0x00, ?_⟩, fun hq => ⟨0x00, ?_⟩, fun hq => ⟨0x00, ?_⟩, fun hq => ⟨0x00, ?_⟩⟩
  · rw [begins hq rfl (accept_instrOfOp hnamed arg _), beginCommand_eq, begun_of_ne hop]
    rfl
  · rw [begins hq rfl (accept_instrOfOp (op := .initCtrl) nofun arg _), beginCommand, firstInitState_eq]
    rfl
  · exact begins hq (Laws.RoundTrip.cwri arg rfl) (accept_pseudoInstr false arg _)
  · exact begins hq (Laws.RoundTrip.cwrd arg rfl) (accept_pseudoInstr true arg _)

/-! ## Commands that are turned away -/

/-- The operation set before INIT (R131). -/
theorem rejection_undef {op : Op} {s : State} (hop : op.inOperationSet = true) (hm : s.mode = .undef) (arg : Byte) :
    rejection op arg s = some (notInitStub s) := by
  cases op with
  | init | deinit | reserved => cases hop
  | writeInstr | writeData | readInstr | readData | waitBusy | initCtrl => exact if_pos hm

/-- Settles O41: the step is the rejection of its cause. -/
theorem turnedAwayCommandsAnswerWithoutEvents : Obligations.TurnedAwayCommandsAnswerWithoutEvents := by
  intro op arg j i b s hN hr hrsp hs
  rw [step_of_run (valid_of_retries hN) hr hrsp hs]
  refine ⟨?_, fun hm hop => ?_⟩
  · rintro (⟨c, rfl⟩ | ⟨rfl, hbad⟩)
    · exact tick_rejected rfl
    · exact tick_rejected (rejection_init (hbad.imp_left fun ⟨h4, h8⟩ => busWidth_none h4 h8))
  · have hset : ∀ o ∈ [Op.writeInstr, .writeData, .readInstr, .readData, .waitBusy, .initCtrl],
        o.inOperationSet = true := by decide
    exact tick_rejected (rejection_undef (hset op hop) hm arg)

/-! ## Commands that execute -/

/-- A part's end leaves the command running, or idle with its response waiting. -/
theorem completePart_ends {s : State} (hrsp : s.rspValid = false) (op : Op) (arg : Byte) (j : Nat) :
    (∃ i b, (completePart op arg j s).seq = .run op arg j i b) ∧ (completePart op arg j s).rspValid = false ∨
      (completePart op arg j s).seq = .idle ∧ (completePart op arg j s).rspValid = true := by
  have entered (x : InitState) :
      (∃ i b, (enterInit x arg j s).seq = .run .initCtrl arg j i b) ∧ (enterInit x arg j s).rspValid = false :=
    ⟨⟨0, 0x00, rfl⟩, hrsp⟩
  cases op with
  | initCtrl =>
    rw [completePart, initTransition]
    cases s.is with
    | idle | emP => exact .inr ⟨rfl, rfl⟩
    | dcP | clrP =>
      simp only [afterTailPoll]
      split
      · exact .inr ⟨rfl, rfl⟩
      · exact .inl (entered _)
    | pre | fs1 | d1 | fs2 | d2 | dc | clr | em => exact .inl (entered _)
  | _ => exact .inr ⟨rfl, rfl⟩

/-- Settles O42: the event at the place it stands at, or its rejection. -/
theorem oneEventPerStepOfARunningCommand : Obligations.OneEventPerStepOfARunningCommand := by
  intro op arg j i b s hinv hs hr
  have hstep := hinv.step_of_running hs hr
  refine ⟨fun hexec => ?_, fun haway => ?_⟩
  · have hrej : rejection op arg s = none := by simpa [turnedAway] using hexec
    obtain ⟨t, ht, -⟩ := hinv.step_inv
    have hnext : nextStep op arg j i b s = .next t := by rw [← tick_executes hrej, ← hstep, ht]
    obtain ⟨e, -, -, htrace⟩ := nextStep_trace hnext
    refine ⟨t, ⟨e, answerOf e s⟩, ht, htrace, ?_⟩
    obtain ⟨e, u, -, hv, rfl, hend⟩ := nextStep_eq_next hnext
    have hrsp : (eventDone (partOf op arg s) i e b s).rspValid = false :=
      (eventDone_kept hv).rspValid.trans (hinv.running hs).1
    obtain ⟨-, rfl⟩ | ⟨-, rfl⟩ := hend
    · exact completePart_ends hrsp op arg (j + 1)
    · exact .inl ⟨⟨i + 1, _, rfl⟩, hrsp⟩
  · obtain ⟨t, hrej⟩ := Option.isSome_iff_exists.1 haway
    refine ⟨t, by rw [hstep, tick_rejected hrej], rejection_trace hrej, ?_⟩
    obtain rfl | ⟨-, rfl⟩ := rejection_eq_some hrej <;> exact ⟨rfl, rfl, rfl⟩

/-! ## The initialization FSM -/

theorem afterTailPoll_cases (x : InitState) (arg : Byte) (j : Nat) (s : State) :
    busy s.sample = true ∧ pollStatus s = .timeout ∧ afterTailPoll x arg j s = finishInitCtrl s ∨
      busy s.sample = false ∧ afterTailPoll x arg j s = enterInit x arg j s := by
  cases hb : busy s.sample <;> simp [afterTailPoll, pollStatus, hb]

/-- INIT_CTRL ends with the result of its last poll. -/
theorem finishInitCtrl_status (s : State) :
    (finishInitCtrl s).sample.getLsbD 7 = false ∧ (finishInitCtrl s).rspStatus = .ok ∨
      (finishInitCtrl s).sample.getLsbD 7 = true ∧ (finishInitCtrl s).rspStatus = .timeout := by
  change busy s.sample = false ∧ pollStatus s = .ok ∨ busy s.sample = true ∧ pollStatus s = .timeout
  cases hb : busy s.sample <;> simp [pollStatus, hb]

/-- Settles O23: before INIT the command is turned away; otherwise a step goes on within its part, or ends it, and then each IS
state has its transition. -/
theorem initFsmHasNoOtherTransition : Obligations.InitFsmHasNoOtherTransition := by
  intro arg j i b s t hs hrsp hr hstep
  have htick : tick .initCtrl arg j i b s = .next t := by
    obtain ⟨hreset, -⟩ | ⟨-, hadvance⟩ := step_eq_next hstep
    · simp [hr] at hreset
    · simpa [advance, hrsp, hs] using hadvance
  refine ⟨fun hm => ?_, fun hm => ?_⟩
  · rw [tick_rejected (rejection_undef rfl hm arg)] at htick
    cases htick
    exact ⟨rfl, rfl, rfl, rfl⟩
  have hrej : rejection .initCtrl arg s = none := if_neg hm
  rw [tick_executes hrej] at htick
  obtain ⟨e, u, he, -, hu, hend⟩ := nextStep_eq_next htick
  have his : u.is = s.is := by
    rw [hu]
    exact eventDone_is ..
  obtain ⟨-, rfl⟩ | ⟨-, rfl⟩ := hend
  case inr => exact .inl ⟨his, _, rfl⟩
  refine .inr ?_
  simp only [completePart, initTransition, his]
  cases hstate : s.is with
  | idle => simp [partOf, initPart, hstate, nextEvent] at he
  | pre | fs1 | d1 | fs2 | d2 | dc | clr | em => exact .inl ⟨⟨0x00, rfl⟩, by simp [enterInit]⟩
  | dcP | clrP =>
    simp only
    obtain ⟨hbusy, htimeout, ht⟩ | ⟨hready, ht⟩ := afterTailPoll_cases _ arg (j + 1) u
    · rw [ht]
      exact .inr ⟨rfl, rfl, rfl, rfl, .inr ⟨by simp, hbusy, htimeout⟩⟩
    · have hbit : u.sample.getLsbD 7 = false := hready
      rw [ht]
      exact .inl ⟨⟨0x00, rfl⟩, by simpa [enterInit] using hbit⟩
  | emP =>
    refine .inr ⟨rfl, rfl, rfl, rfl, ?_⟩
    exact (finishInitCtrl_status u).imp (fun h => ⟨rfl, h⟩) fun h => ⟨.inr (.inr rfl), h⟩

end Sys2Proof.Machine

/-! # Where reads and polls write SAMPLE, HI and K

The steps of a running read or poll at the events after which the pseudocode writes a register (43_read.md R170, R171;
44_busy_poll.md R190, R191; log 8). -/

namespace Sys2Proof.Machine

/-! ## One step at a place -/

theorem InPart.step_inside {op : Op} {arg : Byte} {p : Part} {j i : Nat} {e : PortOp} {bound : Byte} {s t : State}
    (h : InPart op arg p s) (hs : s.seq = .run op arg j i bound) (he : nextEvent p i s = some e)
    (hv : violation e s = none) (hdone : eventDone p i e bound s = t) (hmore : partOver p i e t = false) :
    step s = .next (running op arg (j + 1) (i + 1) (boundAfter e bound s) t) := by
  subst hdone
  have hstep := step_running h.toExecutes h.part he hv j bound
  rwa [running_of_seq hs, hmore, if_neg Bool.false_ne_true] at hstep

theorem InPart.step_last {op : Op} {arg : Byte} {p : Part} {j i : Nat} {e : PortOp} {bound : Byte} {s t : State}
    (h : InPart op arg p s) (hs : s.seq = .run op arg j i bound) (he : nextEvent p i s = some e)
    (hv : violation e s = none) (hdone : eventDone p i e bound s = t) (hover : partOver p i e t = true) :
    step s = .next (completePart op arg (j + 1) t) := by
  subst hdone
  have hstep := step_running h.toExecutes h.part he hv j bound
  rwa [running_of_seq hs, hover, if_pos rfl] at hstep

/-- The first IN4 of a sample writes HI. -/
theorem InPart.step_high {op : Op} {arg : Byte} {p : Part} {j i n n' : Nat} {b : Byte} {s : State} (h : InPart op arg p s)
    (hsample : SampleAt p i) (hm : s.mode = .m4) (hin : s.lines.dir4 = .input) (hs : s.seq = .run op arg j n b)
    (hn : n = i + 1) (hn' : n' = n + 1) :
    ∃ b', step s = .next { s with
      hi := lowNibble (rdataAt s 0)
      trace := s.trace ++ [in4Event (lowNibble (rdataAt s 0))]
      answers := s.answers.drop 1, draws := s.draws + 1, seq := .run op arg (j + 1) n' b' } := by
  subst hn hn'
  have hmode : ({ perform .in4 s with hi := lowNibble (rdata s) } : State).mode = .m4 := hm
  refine ⟨boundAfter .in4 b s, ?_⟩
  rw [h.step_inside hs (hsample.nextEvent hm (d := 1) (by decide)) (violation_nibbleEvent 1 hm hin)
    (hsample.eventDone_high hm b) (hsample.partOver_inside hmode (by decide) _), perform_in4]
  rfl

/-- The second IN4 of a sample binds its nibble and writes nothing. -/
theorem InPart.step_low {op : Op} {arg : Byte} {p : Part} {j i n n' : Nat} {b : Byte} {s : State} (h : InPart op arg p s)
    (hsample : SampleAt p i) (hm : s.mode = .m4) (hin : s.lines.dir4 = .input) (hs : s.seq = .run op arg j n b)
    (hn : n = i + 4) (hn' : n' = n + 1) :
    ∃ b', lowNibble b' = lowNibble (rdataAt s 0) ∧ step s = .next { s with
      trace := s.trace ++ [in4Event (lowNibble (rdataAt s 0))]
      answers := s.answers.drop 1, draws := s.draws + 1, seq := .run op arg (j + 1) n' b' } := by
  subst hn hn'
  have hmode : (perform .in4 s).mode = .m4 := hm
  refine ⟨boundAfter .in4 b s, lowNibble_boundAfter_in4 b s, ?_⟩
  rw [h.step_inside hs (hsample.nextEvent hm (d := 4) (by decide)) (violation_nibbleEvent 4 hm hin)
    (hsample.eventDone_other hm (by decide) (by decide) _ b) (hsample.partOver_inside hmode (by decide) _)]
  change Host.Outcome.next (running op arg _ _ _ (perform .in4 s)) = _
  rw [perform_in4]
  rfl

/-! ## Reads -/

/-- The read command of a side. -/
def readOp (rs : Bool) : Op := if rs then .readData else .readInstr

theorem partOf_readOp (rs : Bool) (arg : Byte) (s : State) : partOf (readOp rs) arg s = .read (readEvents s.mode rs) := by
  cases rs <;> rfl

theorem completePart_readOp (rs : Bool) (arg : Byte) (j : Nat) (s : State) :
    completePart (readOp rs) arg j s = respond .ok s.sample s := by
  cases rs <;> rfl

/-- Settles O43: the list of a read is R8 or a sample at place 2. -/
theorem readsWriteSampleAfterTheirLastEvent : Obligations.ReadsWriteSampleAfterTheirLastEvent := by
  intro op arg j b s hN hr hrsp hop
  obtain ⟨rs, rfl⟩ : ∃ rs, op = readOp rs := hop.elim (fun h => ⟨false, h⟩) fun h => ⟨true, h⟩
  have inPart {m : Mode} (hm : s.mode = m) (hne : m ≠ .undef) : InPart (readOp rs) arg (.read (readEvents m rs)) s :=
    ⟨executes_of_session (by cases rs <;> rfl) (valid_of_retries hN) hr hrsp (hm ▸ hne), hm ▸ partOf_readOp rs arg s⟩
  have sampleAt : SampleAt (.read (r4 rs)) 2 := .inl ⟨⟨rs, rfl⟩, rfl⟩
  refine ⟨fun hm hin hs => ?_, fun hm hs => ?_, fun hm hin hs => ?_, fun hm hin hs => ?_, fun hm hs => ?_⟩
  · have hlegal : violation .in8 s = none := by rw [violation_in8_m8 hm, if_pos hin]
    rw [(inPart hm nofun).step_inside hs rfl hlegal (eventDone_read8_in8 rs b) rfl, perform_in8]
    rfl
  · have hlegal : violation .clrCe s = none := if_neg (by simp [hm])
    rw [(inPart hm nofun).step_last hs rfl hlegal (eventDone_read8_clrCe rs b hm) rfl, completePart_readOp]
    rfl
  · exact (inPart hm nofun).step_high sampleAt hm hin hs rfl rfl
  · exact (inPart hm nofun).step_low sampleAt hm hin hs rfl rfl
  · have hlegal : violation .clrCe s = none := if_neg (by simp [hm])
    rw [(inPart hm nofun).step_last hs rfl hlegal (sampleAt.eventDone_last hm b) rfl, completePart_readOp,
      joinNibbles_eq_append]
    rfl

/-! ## Polls -/

theorem pollOver_eq_false_iff (s : State) :
    pollOver s = false ↔ s.sample.getLsbD 7 = true ∧ s.k ≠ s.cfg.busyRetryMax := by
  rw [pollOver, Bool.or_eq_false_iff, Bool.not_eq_false', decide_eq_false_iff_not, busy]

theorem pollOver_iff (s : State) : pollOver s = true ↔ s.sample.getLsbD 7 = false ∨ s.k = s.cfg.busyRetryMax := by
  rw [pollOver, Bool.or_eq_true, Bool.not_eq_true', decide_eq_true_iff, busy]

/-- The busy bit of a nibble pair is bit 3 of its high nibble (R192). -/
theorem busy_append (hi lo : Nibble) : busy (hi ++ lo) = hi.getLsbD 3 := by
  revert hi lo
  decide

/-- Settles O44: place 3 + q of a poll in M8, and the samples at places 2 + 6q in M4. -/
theorem pollsWriteSampleWhereTheLoopDoes : Obligations.PollsWriteSampleWhereTheLoopDoes := by
  intro arg j b s hN hr hrsp
  have inPart {m : Mode} (hm : s.mode = m) (hne : m ≠ .undef) : InPart .waitBusy arg .poll s :=
    ⟨executes_of_session rfl (valid_of_retries hN) hr hrsp (hm ▸ hne), rfl⟩
  have sampleAt (q : Nat) : SampleAt .poll (2 + 6 * q) := .inr ⟨rfl, q, rfl⟩
  refine ⟨fun q hm hin hmore hs => ?_, fun q hm hk hover hs => ?_, fun q hm hin hs => ?_, fun q hm hin hs => ?_,
    fun q hm hs => ?_⟩
  · have hlegal : violation .in8 s = none := by rw [violation_in8_m8 hm, if_pos hin]
    have hnext : nextEvent .poll (3 + q) s = some .in8 := by
      rw [pollEvent_m8 _ hm, pollEvent8_sample q (hmore.imp_right (pollOver_eq_false_iff s).2)]
    refine ⟨rdataAt s 0, ?_⟩
    rw [(inPart hm nofun).step_inside hs hnext hlegal (eventDone_poll8_in8 q b hm) (partOver_poll8 _ _ hm),
      Nat.add_right_comm 3 q 1, List.drop_one]
    rfl
  · have hlegal : violation .clrCe s = none := if_neg (by simp [hm])
    have hnext : nextEvent .poll (3 + q) s = some .clrCe := by
      rw [pollEvent_m8 _ hm, pollEvent8_end q hk ((pollOver_iff s).2 hover)]
    rw [(inPart hm nofun).step_last hs hnext hlegal (eventDone_poll8_other (3 + q) .clrCe b hm (by omega) nofun nofun)
      (partOver_poll8 _ _ ((perform_mode _ s).trans hm))]
    rfl
  · exact (inPart hm nofun).step_high (sampleAt q) hm hin hs (by omega) (by omega)
  · exact (inPart hm nofun).step_low (sampleAt q) hm hin hs (by omega) (by omega)
  · intro t
    have hplace : 7 + 6 * q = 2 + 6 * q + 5 := by omega
    rw [hplace] at hs
    have hnext : nextEvent .poll (2 + 6 * q + 5) s = some .clrCe := (sampleAt q).nextEvent hm (by decide)
    have hlegal : violation .clrCe s = none := if_neg (by simp [hm])
    have hdone : eventDone .poll (2 + 6 * q + 5) .clrCe b s = t := by
      rw [(sampleAt q).eventDone_last hm b, if_pos rfl, joinNibbles_eq_append]
      rfl
    have hover : partOver .poll (2 + 6 * q + 5) .clrCe t = pollOver t := partOver_poll4_last q .clrCe hm
    have hbit : t.sample.getLsbD 7 = s.hi.getLsbD 3 := busy_append s.hi (lowNibble b)
    refine ⟨fun hmore => ⟨b, ?_⟩, fun hend => ?_⟩
    · have hgoes : pollOver t = false := (pollOver_eq_false_iff t).2 (hbit ▸ hmore)
      have hplace' : 8 + 6 * q = 2 + 6 * q + 5 + 1 := by omega
      rw [(inPart hm nofun).step_inside hs hnext hlegal hdone (hover.trans hgoes), hplace']
      rfl
    · have hends : pollOver t = true := (pollOver_iff t).2 (hbit ▸ hend)
      rw [(inPart hm nofun).step_last hs hnext hlegal hdone (hover.trans hends), completePart, pollStatus, busy, hbit]
      rfl

end Sys2Proof.Machine

/-! # Single events, LCD codes and pseudo-instructions

The instructions that are no command words: the port events and DELAY (40_port.md R117, R118), the LCD codes (30_encoding.md
R79, R83 to R85) and the pseudo-instructions (R88); and what DEINIT makes of the scratch registers (10_state.md R35). -/

namespace Sys2Proof.Machine

/-- Settles O8: what DEINIT leaves in them is a function of the trace. -/
theorem deinitForgetsScratch : Obligations.DeinitForgetsScratch := fun a b _ _ _ s =>
  ⟨_, _, exec_deinit_eq a s, exec_deinit_eq b _, rfl, forgetScratch_k_le _⟩

/-! ## Port events -/

/-- Settles O29: DELAY has no line and no answer. -/
theorem delayEvent : Obligations.DelayEvent := fun us _ =>
  ⟨fun hm => exec_without_answer (op := .delay us) (if_neg hm) rfl,
    fun hm => exec_of_violation (violation_outside_session (op := .delay us) nofun nofun hm)⟩

/-- An event faults when it is a violation and runs when it is none. -/
theorem exec_faults_iff {op : PortOp} {s : State} {violates : Prop} (h : violation op s = none ↔ ¬violates) :
    (violates → ∃ x, exec (instrOf op) s = .fault x) ∧ (¬violates → ∃ t, exec (instrOf op) s = .next t) := by
  refine ⟨fun hv => ?_, fun hv => ⟨_, exec_of_legal (h.2 hv) rfl⟩⟩
  obtain ⟨x, hx⟩ := Option.ne_none_iff_exists'.1 fun hnone => h.1 hnone hv
  exact ⟨x, exec_of_violation hx⟩

theorem busWidth_isSome (w : Byte) : (busWidth w).isSome = true ↔ w = 4 ∨ w = 8 := by
  unfold busWidth
  split_ifs <;> simp_all

/-- Settles O30: event by event, its violations are those the statement lists. -/
theorem eventsFaultExactlyOnContractViolations : Obligations.EventsFaultExactlyOnContractViolations := by
  intro w n v us i s hi violates
  simp only [List.mem_cons, List.not_mem_nil, or_false] at hi
  rcases hi with rfl | rfl | rfl | rfl | rfl | rfl | rfl | rfl | rfl | rfl | rfl | rfl | rfl | rfl | rfl | rfl | rfl
  · refine exec_faults_iff (op := .portInit w) ?_
    simp [violates, violation, busWidth_isSome, or_iff_not_imp_left]
  · exact exec_faults_iff (op := .portDeinit) (by simp [violates, violation])
  · exact exec_faults_iff (op := .setRs) (by simp [violates, violation])
  · exact exec_faults_iff (op := .clrRs) (by simp [violates, violation])
  · exact exec_faults_iff (op := .setRw) (by simp [violates, violation])
  · exact exec_faults_iff (op := .clrRw) (by simp [violates, violation])
  · exact exec_faults_iff (op := .setCe) (by simp [violates, violation])
  · exact exec_faults_iff (op := .clrCe) (by simp [violates, violation])
  · exact exec_faults_iff (op := .dirIn4) (by cases hm : s.mode <;> simp [violates, violation, needMode, hm])
  · exact exec_faults_iff (op := .dirIn8) (by cases hm : s.mode <;> simp [violates, violation, needMode, hm])
  · exact exec_faults_iff (op := .dirOut4) (by cases hm : s.mode <;> simp [violates, violation, needMode, hm])
  · exact exec_faults_iff (op := .dirOut8) (by cases hm : s.mode <;> simp [violates, violation, needMode, hm])
  · exact exec_faults_iff (op := .out4 n) (by cases hm : s.mode <;> simp [violates, violation, needMode, hm])
  · exact exec_faults_iff (op := .out8 v) (by cases hm : s.mode <;> simp [violates, violation, needMode, hm])
  · exact exec_faults_iff (op := .in4) (by cases hm : s.mode <;> simp [violates, violation, needMode, hm])
  · exact exec_faults_iff (op := .in8) (by cases hm : s.mode <;> simp [violates, violation, needMode, hm])
  · exact exec_faults_iff (op := .delay us) (by simp [violates, violation])

/-! ## LCD codes -/

theorem writeCycle_m8 {s : State} (v : Byte) (hm : s.mode = .m8) :
    writeCycle false v s = .next { s with
      lines := { s.lines with rs := .low, rw := .high, ce := .low, dir8 := .input, dout := .byte v }
      trace := s.trace ++ evs (w8 false v) } := by
  have hevents : writeEvents s.mode false v = w8 false v := by rw [hm, writeEvents]
  rw [writeCycle, hevents]
  exact emitAll_w8 false v hm

theorem writeCycle_m4 {s : State} (v : Byte) (hm : s.mode = .m4) :
    writeCycle false v s = .next { s with
      lines := { s.lines with rs := .low, rw := .high, ce := .low, dir4 := .input, dout := .nibble (lowNibble v) }
      trace := s.trace ++ evs (w4 false v) } := by
  have hevents : writeEvents s.mode false v = w4 false v := by rw [hm]; rfl
  rw [writeCycle, hevents]
  exact emitAll_w4 false v hm

theorem emitAll_of_violation {op : PortOp} {ops : List PortOp} {s : State} {x : Fault} (h : violation op s = some x) :
    emitAll (op :: ops) s = .fault x := by
  rw [emitAll_cons, emit_of_violation h, andThen_fault]

/-- The register-select event stops a write cycle outside a session. -/
theorem emitAll_outside_session {ops : List PortOp} {s : State} (hm : s.mode = .undef) :
    emitAll (regSelect false :: ops) s = .fault .eventOutsideSession :=
  emitAll_of_violation (violation_outside_session (op := .clrRs) nofun nofun hm)

/-- OUT4 stops a 4-bit write cycle in M8: the three events before it are legal there. -/
theorem emitAll_out4_in_m8 {n : Byte} {ops : List PortOp} {s : State} (hm : s.mode = .m8) :
    emitAll ([regSelect false, .clrRw, .setCe] ++ .out4 n :: ops) s = .fault .wrongWidth := by
  have hne : s.mode ≠ .undef := by simp [hm]
  obtain ⟨t, ht⟩ : ∃ t, emitAll [regSelect false, .clrRw, .setCe] s = .next t := by
    simp [emitAll, emit, violation, regSelect, hne]
  rw [emitAll_append, ht, andThen_next]
  exact emitAll_of_violation (violation_out4_m8 n ((emitAll_mode ht).trans hm))

/-- SET_DDRAM's byte is 1 on top of the address (30_encoding.md R85). -/
theorem codeSetDdram_eq (addr : BitVec 7) : codeSetDdram addr = 0x80 ||| addr.setWidth 8 := by
  revert addr
  decide

theorem writeCommand_next {rs : Bool} {v : Byte} {s : State} (hm : s.mode ≠ .undef) :
    ∃ t, writeCommand rs v s = .next t := by
  obtain hm' | hm' | hm' := s.mode.cases
  · exact absurd hm' hm
  · exact ⟨_, writeCommand_eq4 rs v hm'⟩
  · exact ⟨_, writeCommand_eq8 rs v hm'⟩

/-- Settles O31: each code is the write cycle of its byte, and the first event that its mode forbids stops it. -/
theorem lcdCodesAreTheirWriteCycles : Obligations.LcdCodesAreTheirWriteCycles := by
  intro addr s
  have hddram : exec (.setDdram addr) s = exec (.writeInstr (0x80 ||| addr.setWidth 8)) s :=
    congrArg (writeCommand false · s) (codeSetDdram_eq addr)
  refine ⟨fun hm i v hi => ?_, fun hm i v hi => ?_, fun hm => emitAll_w4n false 0x3 hm, fun hm => ?_, fun _ => hddram,
    fun hm => ⟨emitAll_out4_in_m8 hm, emitAll_out4_in_m8 hm⟩, fun hm i hi => ?_⟩
  · simp only [List.mem_cons, Prod.mk.injEq, List.not_mem_nil, or_false] at hi
    obtain ⟨rfl, rfl⟩ | ⟨rfl, rfl⟩ | ⟨rfl, rfl⟩ | ⟨rfl, rfl⟩ := hi <;> exact writeCycle_m8 _ hm
  · simp only [List.mem_cons, Prod.mk.injEq, List.not_mem_nil, or_false] at hi
    obtain ⟨rfl, rfl⟩ | ⟨rfl, rfl⟩ | ⟨rfl, rfl⟩ | ⟨rfl, rfl⟩ | ⟨rfl, rfl⟩ := hi
    case inr.inr.inr.inr => exact emitAll_w4 false _ hm
    all_goals exact writeCycle_m4 _ hm
  · obtain ⟨t, ht⟩ := writeCommand_next (rs := false) (v := 0x80 ||| addr.setWidth 8) hm
    exact ⟨t, hddram.trans ht, ht⟩
  · have outside (v : Byte) : writeCycle false v s = .fault .eventOutsideSession := by
      rw [writeCycle, hm]
      exact emitAll_outside_session hm
    simp only [List.mem_cons, List.not_mem_nil, or_false] at hi
    obtain rfl | rfl | rfl | rfl | rfl | rfl := hi
    case inr.inr.inr.inr.inl => exact emitAll_outside_session hm
    case inr.inr.inr.inr.inr => exact emitAll_outside_session hm
    all_goals exact outside _

/-! ## Pseudo-instructions -/

theorem writeCommand_readable {rs : Bool} {v : Byte} {s t : State} (hread : busReadable s)
    (h : writeCommand rs v s = .next t) : busReadable t := by
  obtain ⟨hm, -⟩ | ⟨hm, -⟩ := hread
  · cases h.symm.trans (writeCommand_eq8 rs v hm)
    exact .inl ⟨hm, rfl⟩
  · cases h.symm.trans (writeCommand_eq4 rs v hm)
    exact .inr ⟨hm, rfl⟩

theorem busReadable_session {s : State} (hread : busReadable s) : s.mode ≠ .undef := by
  obtain ⟨hm, -⟩ | ⟨hm, -⟩ := hread <;> simp [hm]

/-- In a session with the host ready: the write, the host's taking of its response, and the poll. -/
theorem checkedCommand_ready {s : State} (rs : Bool) (v : Byte) (hN : 1 ≤ s.cfg.busyRetryMax) (hread : busReadable s)
    (hready : s.rspReady = true) :
    ∃ t u, writeCommand rs v s = .next t ∧ pollCommand (takeResponse t) = .next u ∧ checkedCommand rs v s = .next u ∧
      u.delivered = s.delivered ++ [⟨.ok, 0x00⟩] ∧ u.rspValid = true := by
  have hm := busReadable_session hread
  obtain ⟨t, ht⟩ := writeCommand_next (rs := rs) (v := v) hm
  have hw := (writeCommand_answer ht).responds
  obtain ⟨u, hu, -⟩ := waitBusyAlwaysCompletes 0x00 (takeResponse t)
    (writeCommand_readable (t := t) hread ht) (hw.cfg ▸ hN)
  have hp := (pollCommand_answer hu).responds
  have hwaiting : waiting t = ⟨.ok, 0x00⟩ := by
    obtain ⟨w, -, rfl⟩ := writeCommand_kept hm ht
    rfl
  refine ⟨t, u, ht, hu, ?_, ?_, hp.rspValid⟩
  · rw [checkedCommand, ht, andThen_next, if_pos (hw.rspReady.trans hready)]
    exact hu
  · rw [hp.delivered, takeResponse_delivered, hwaiting, hw.delivered]

/-- In a session with the host not ready the write's response waits and `waitbusy` stays offered. -/
theorem checkedCommand_not_ready {s : State} (rs : Bool) (v : Byte) (hm : s.mode ≠ .undef) (hready : s.rspReady = false) :
    ∃ t, writeCommand rs v s = .next t ∧ t.rspValid = true ∧
      checkedCommand rs v s = .next { t with queue := .command 0x700 :: s.queue } := by
  obtain ⟨t, ht⟩ := writeCommand_next (rs := rs) (v := v) hm
  have hw := (writeCommand_answer ht).responds
  refine ⟨t, ht, hw.rspValid, ?_⟩
  rw [checkedCommand, ht, andThen_next, if_neg (by simp [hw.rspReady, hready]), hw.queue]
  rfl

/-- Before INIT both words are stubs (R131). -/
theorem checkedCommand_undef {s : State} (rs : Bool) (v : Byte) (hm : s.mode = .undef) :
    checkedCommand rs v s =
      if s.rspReady then .next (notInitStub (takeResponse (notInitStub s)))
      else .next { notInitStub s with queue := .command waitBusyWord :: s.queue } := by
  have hpoll : pollCommand (takeResponse (notInitStub s)) = .next (notInitStub (takeResponse (notInitStub s))) :=
    inSession_undef hm
  rw [checkedCommand, writeCommand, inSession_undef hm, andThen_next, hpoll]
  rfl

/-- Settles O32: each clause for the write of either side. -/
theorem pseudoIsWriteThenPoll : Obligations.PseudoIsWriteThenPoll := by
  intro v a s hN
  refine ⟨fun hread hready => ⟨?_, ?_⟩, fun hm hready => ⟨?_, ?_⟩, fun hm i hi => ?_⟩
  · exact checkedCommand_ready false v hN hread hready
  · exact checkedCommand_ready true v hN hread hready
  · exact checkedCommand_not_ready false v hm hready
  · exact checkedCommand_not_ready true v hm hready
  · obtain ⟨rs, hexec⟩ : ∃ rs, exec i s = checkedCommand rs v s :=
      hi.elim (fun h => ⟨false, h ▸ rfl⟩) fun h => ⟨true, h ▸ rfl⟩
    rw [hexec, checkedCommand_undef rs v hm]
    exact ⟨fun hready => if_pos hready, fun hready => if_neg (by simp [hready])⟩

end Sys2Proof.Machine

/-! # The reference host

What the calls of the Display Driver offer, and when a host program is refused (46_host_driver.md). -/

namespace Sys2Proof.Machine

/-! ## Addresses -/

theorem clampToOrigin_inside {v limit : Int} (h0 : 0 ≤ v) (h1 : v < limit) : clampToOrigin v limit = v :=
  if_neg (by omega)

theorem clampToOrigin_outside {v limit : Int} (h : v < 0 ∨ limit ≤ v) : clampToOrigin v limit = 0 := if_pos h

theorem clampToOrigin_origin (limit : Int) : clampToOrigin 0 limit = 0 := ite_self 0

theorem toNat_ofInt_7 (z : Int) : ((BitVec.ofInt 7 z).toNat : Int) = z % 128 := by
  rw [BitVec.toNat_ofInt]
  exact Int.toNat_of_nonneg (Int.emod_nonneg z (by decide))

/-! ## What a call offers -/

theorem screen_of_usable {g : Geometry} {bound ready : Bool} (hw : 1 ≤ g.width) (hh : 1 ≤ g.height) :
    DriverState.screen ⟨some g, bound, ready⟩ = .ok g := by
  simp [DriverState.screen, Geometry.usable, hw, hh]

theorem whenReady_of_ready {h : DriverState} (hr : h.ready = true) (ps : List Packet) : h.whenReady ps = .ok ps := if_pos hr

theorem whenReady_of_not_ready {h : DriverState} (hr : h.ready = false) (ps : List Packet) :
    h.whenReady ps = .error .notInitialised := if_neg (by simp [hr])

/-- Settles O55: both clamps, then the residue modulo 128. -/
theorem gotoXyAddress : Obligations.GotoXyAddress := by
  intro g x y
  refine ⟨fun hx0 hx hy0 hy => ?_, fun hx => ?_, fun hy => ?_, fun hw hh => ?_⟩
  · rw [ddramAddress, toNat_ofInt_7, clampToOrigin_inside hx0 hx, clampToOrigin_inside hy0 hy]
  · rw [ddramAddress, ddramAddress, clampToOrigin_outside hx, clampToOrigin_origin]
  · rw [ddramAddress, ddramAddress, clampToOrigin_outside hy, clampToOrigin_origin]
  · rw [expandCall, screen_of_usable hw hh]
    simp only
    rw [whenReady_of_ready rfl, codeSetDdram_eq]
    rfl

theorem putcByte_eq (c : Int) : putcByte c = if 0 ≤ c ∧ c ≤ 255 then BitVec.ofInt 8 c else 0x20 := by
  by_cases hc : 0 ≤ c ∧ c ≤ 255
  · rw [putcByte, if_pos hc, if_neg (by omega)]
  · rw [putcByte, if_neg hc, if_pos (by omega)]

/-- Puts polls once when it has no character to write, and else writes each of them. -/
theorem expandCall_puts {g : Geometry} (hw : 1 ≤ g.width) (hh : 1 ≤ g.height) (str : Option (List Byte)) :
    expandCall ⟨some g, true, true⟩ (.puts str) =
      .ok (if putsChars g str = [] then [.command waitBusyWord] else (putsChars g str).map offerCwrd) := by
  rw [expandCall, screen_of_usable hw hh]
  simp only
  cases putsChars g str with
  | nil => rfl
  | cons c cs => rfl

/-- Settles O56: Puts has no character exactly for null and the empty string. -/
theorem putcAndPutsOffer : Obligations.PutcAndPutsOffer := by
  refine ⟨fun h c hr => ?_, fun g chars hw hh hne => ?_, fun g hw hh => ⟨expandCall_puts hw hh _, ?_⟩⟩
  · rw [expandCall, whenReady_of_ready hr, putcByte_eq]
    rfl
  · have hchars : putsChars g (some chars) ≠ [] := by
      rw [putsChars, ne_eq, List.take_eq_nil_iff]
      exact not_or.2 ⟨by omega, hne⟩
    rw [expandCall_puts hw hh, if_neg hchars]
    rfl
  · rw [expandCall_puts hw hh, if_pos (by simp [putsChars])]
    rfl

/-! ## Programs that are refused -/

/-- A call other than SetupScreenDimensions is refused before the initialization (R247). -/
theorem expandCall_not_ready {h : DriverState} {c : DriverCall} (hc : ∀ w h', c ≠ .setupScreenDimensions w h')
    (hr : h.ready = false) : ∃ why, expandCall h c = .error why := by
  cases c with
  | setupScreenDimensions w h' => exact absurd rfl (hc w h')
  | clear | putc => exact ⟨_, whenReady_of_not_ready hr _⟩
  | gotoXY =>
    rw [expandCall]
    split
    · exact ⟨_, whenReady_of_not_ready hr _⟩
    · exact ⟨_, rfl⟩
  | puts str =>
    rw [expandCall]
    split
    · split
      · exact ⟨_, whenReady_of_not_ready hr _⟩
      · exact ⟨_, whenReady_of_not_ready hr _⟩
    · exact ⟨_, rfl⟩

theorem screen_of_unusable {h : DriverState} (hg : ∀ g, h.geometry = some g → g.width < 1 ∨ g.height < 1) :
    h.screen = .error .geometryNotSet := by
  unfold DriverState.screen
  split
  · rfl
  · next g hgeom =>
    have hnot : g.usable = false := by
      obtain hw | hh := hg g hgeom <;> simp [Geometry.usable] <;> omega
    rw [hnot, if_neg Bool.false_ne_true]

theorem instrOfOp_deinit (arg : Byte) : instrOfOp .deinit arg = .deinit arg := by
  rw [instrOfOp, decodeCommand, opField_cmdWord, argField_cmdWord]
  rfl

/-- Settles O57: what is not ready, or has no screen, answers an error. -/
theorem hostProgramsNeedSetupAndInit : Obligations.HostProgramsNeedSetupAndInit := by
  refine ⟨fun n c rest s hc => ?_, fun h c => expandCall_not_ready, fun h x y str hg => ?_,
    fun h c w r => ⟨?_, fun hc => ?_⟩, fun h x y => rfl, fun h a d st => ⟨rfl, rfl, ?_, ?_, rfl⟩⟩
  · obtain ⟨why, hwhy⟩ := expandCall_not_ready (h := .start) hc rfl
    exact ⟨why, by simp only [runHostProgram, runProgram, runAction, hwhy]⟩
  · have hscreen := screen_of_unusable hg
    exact ⟨by rw [expandCall, hscreen], by rw [expandCall, hscreen]⟩
  · unfold afterResponse
    split <;> rfl
  · cases c with
    | setupScreenDimensions w h' => exact absurd rfl (hc w h')
    | clear | gotoXY | putc | puts => rfl
  · have hword : decodeCommand (0x8#4 ++ a) = .initCtrl a := instrOfOp_initCtrl a
    rw [afterResponse, hword]
  · have hword : decodeCommand (0x2#4 ++ a) = .deinit a := instrOfOp_deinit a
    rw [afterResponse, hword]

end Sys2Proof.Machine
